-- ==== Sys2Proof/Word.lean ====
section
/-!
DEFINITION. The word types of 00_scope.md rules R7 and R8: bytes, and the unsigned 32-bit and 64-bit words
of the registers and of the hash engines. Arithmetic on them is modulo the word width.
-/
namespace Sys2Proof

/-- One byte of the input buffer or of a digest (R9). -/
abbrev Byte := BitVec 8

/-- A 32-bit register, bus word, or word of the 32-bit engines (R8, R22). -/
abbrev Word32 := BitVec 32

/-- A 64-bit word of the byte counter and of the `X64_128` engine (R8, R32). -/
abbrev Word64 := BitVec 64

end Sys2Proof
end

