-- ==== Sys2Proof/Config.lean ====
section
/-!
DEFINITION. What the platform or the implementation fixes (00_scope.md rule R6) and the free values (R11,
44_commands.md rule R190, 10_state.md rule R35). A free value is an opaque constant with no body: nothing can
be proved of the value it takes, so a claim about it holds for every value.
-/
namespace Sys2Proof

/-- The `n`-th draw of an instance (R190: draws are unconstrained and independent). `stream` keeps the draws of
different instances apart. FREE VALUE, log 2. -/
opaque Config.draw : (stream n : Nat) → Word32

/-- What byte `a` of `BUF` holds after the `resets`-th hardware reset until the host writes it (R35, R260).
FREE VALUE, log 3. -/
opaque Config.bufDraw : (stream resets a : Nat) → Byte

/-- How many host operations go by before the `n`-th issued command completes (R181: an unspecified finite
delay). FREE VALUE, log 4. -/
opaque Config.completionDelay : (stream n : Nat) → Nat

/-- Whether layout `Auto` selects `X64_128` on this platform (R6, R183). OPEN parameter, log 1. -/
opaque Config.autoSelectsX64 : Bool

/-- The number of instances beyond the first (R6: `N_INST >= 1`). OPEN parameter, log 11. -/
opaque Config.extraInstances : Nat

/-- How many empty 2^21-byte slots lie below instance `k`'s window and above the one before it (R52).
OPEN parameter, log 11. -/
opaque Config.baseGap : (k : Nat) → Nat

/-- `N_INST` (R6). -/
def Config.nInst : Nat := Config.extraInstances + 1

/-- The alignment of `BLOCK_BASE`: 2^21 (R52). -/
def Config.baseAlign : Nat := 0x200000

/-- The 2^21-byte slot in which the window of instance `k` lies, the instances taken in the order of their
addresses. -/
def Config.baseSlot : Nat → Nat
  | 0 => Config.baseGap 0
  | k + 1 => Config.baseSlot k + 1 + Config.baseGap (k + 1)

/-- `BLOCK_BASE` of instance `k` (R6, R52). -/
def Config.blockBase (k : Nat) : Nat := Config.baseAlign * Config.baseSlot k

/-- The default of `BUF_BYTES` (R6). -/
def Config.bufBytesDefault : Nat := 4096

/-- The window offset at which `BUF` begins (R22). -/
def Config.bufBase : Nat := 0x1000

/-- The constant the register `ID` reads (R23). -/
def Config.idValue : Word32 := 0x4D4D3301#32

end Sys2Proof
end

