-- ==== Sys2Proof/Syntax.lean ====
section
/-!
DEFINITION. The commands of 30_encoding.md rule R71, one constructor per row of spec/opcode_table.json. No
command word carries an operand (R73).
-/
namespace Sys2Proof

/-- A command (44_commands.md). -/
inductive Instr where
  /-- `NOP` (R184). -/
  | nop
  /-- `INIT`: construction (R185). -/
  | init
  /-- `RESET`: back to the just-constructed state (R186). -/
  | reset
  /-- `UPDATE`: absorb `LENGTH` bytes of `BUF` from `OFFSET` (R187, R188). -/
  | update
  /-- `FINAL`: fold down to the digest (R189). -/
  | final
  /-- `CLRERR`: clear the error status (R191). -/
  | clrerr
  deriving DecidableEq, Repr

end Sys2Proof
end

