-- ==== Sys2Proof/WellFormed.lean ====
section
/-!
DEFINITION. When a command word is well formed (30_encoding.md rules R70 to R72), and when a value of the open
parameter `BUF_BYTES` is legal (00_scope.md rule R6). A decoded command has no operand, so nothing is left to
check on it (R73).
-/
namespace Sys2Proof

/-- The field `OPC`, bits 3:0 (R70). -/
def opcField (w : Word32) : BitVec 4 := w.extractLsb' 0 4

/-- The field `RSV`, bits 31:4 (R70). -/
def rsvField (w : Word32) : BitVec 28 := w.extractLsb' 4 28

/-- `RSV` must be 0 (R70). -/
def rsvOk (w : Word32) : Bool := rsvField w == 0#28

/-- `OPC` is in 0x0..0x5 (R71). -/
def opcOk (w : Word32) : Bool := (opcField w).toNat ≤ 5

/-- A word selects a command exactly when both hold (R71); every other word is illegal (R72). -/
def wordWf (w : Word32) : Bool := rsvOk w && opcOk w

/-- No command carries an operand that could be ill formed (R73). -/
def Instr.wf : Instr → Bool
  | .nop | .init | .reset | .update | .final | .clrerr => true

/-- `BUF_BYTES` is a multiple of 4 with 16 <= BUF_BYTES <= 2^20 (R6). -/
def bufBytesWf (n : Nat) : Bool := n % 4 == 0 && 16 ≤ n && n ≤ 0x100000

end Sys2Proof
end

