-- ==== Sys2Proof/Decode.lean ====
section
/-!
DEFINITION. Decoding a command word (30_encoding.md rules R70 to R72, 44_commands.md rule R182) and, after it,
the encoder. Decoding is total: a word that selects no command is rejected by the name of the check it fails.
-/
namespace Sys2Proof

/-- Why a word is an illegal encoding (R72). -/
inductive DecodeError where
  /-- `RSV` is not 0. -/
  | reservedBits
  /-- `OPC` is in 0x6..0xF. -/
  | reservedOpcode
  deriving DecidableEq, Repr

/-- The opcode map (R71). -/
def decodeOpc (opc : Nat) : Except DecodeError Instr :=
  match opc with
  | 0 => .ok .nop
  | 1 => .ok .init
  | 2 => .ok .reset
  | 3 => .ok .update
  | 4 => .ok .final
  | 5 => .ok .clrerr
  | _ => .error .reservedOpcode

/-- Decode a command word (R71, R72, R182). -/
def decode (w : Word32) : Except DecodeError Instr :=
  if rsvOk w then decodeOpc (opcField w).toNat else .error .reservedBits

/-- The word of a command (R71's "word (hex)" column). -/
def encode : Instr → Word32
  | .nop => 0x00000000#32
  | .init => 0x00000001#32
  | .reset => 0x00000002#32
  | .update => 0x00000003#32
  | .final => 0x00000004#32
  | .clrerr => 0x00000005#32

/-- The command word whose low `nbits` bits are `w` and whose other bits are 0. -/
def tableWord (nbits w : Nat) : Word32 := (BitVec.ofNat nbits w).setWidth 32

/-- What the decoder reads from an opcode-table row's word. A command is exactly 32 bits (R70), so no row is
longer. -/
def decodeTableWord (nbits w : Nat) : Option Instr :=
  if nbits ≤ 32 then (decode (tableWord nbits w)).toOption else none

end Sys2Proof
end

