-- ==== Sys2Proof/Machine/State.lean ====
section
/-!
DEFINITION. The state of one instance (10_state.md rules R20 to R41), with the host's side of it (R20, R75) and
the state after hardware reset (R40). All of it is plain data.
-/
namespace Sys2Proof.Machine

/-- The hash algorithm an instance runs (00_scope.md R2, 30_encoding.md R74). -/
inductive Variant where
  /-- Code 0: the Hash32 engine. -/
  | h32
  /-- Code 1: the Hash128-x86 engine. -/
  | x86
  /-- Code 2: the Hash128-x64 engine. -/
  | x64
  deriving DecidableEq, Repr

/-- `CFG.WIDTH` (R26). -/
inductive Width where
  /-- 0: 32-bit. -/
  | w32
  /-- 1: 128-bit. -/
  | w128
  deriving DecidableEq, Repr

/-- `CFG.LAYOUT` (R26). The value 3 cannot be stored. -/
inductive Layout where
  /-- 0: Auto. -/
  | auto
  /-- 1: X86 (PreferX86). -/
  | x86
  /-- 2: X64 (PreferX64). -/
  | x64
  deriving DecidableEq, Repr

/-- The register `CFG` (R26). Its reserved bits are not stored (R39). -/
structure Cfg where
  width : Width
  layout : Layout
  deriving DecidableEq, Repr

/-- The errors a command can record (60_exceptions.md R220). -/
inductive ErrCode where
  /-- Code 1: bad `OFFSET` or `LENGTH`. -/
  | bounds
  /-- Code 2: `UPDATE` or `FINAL` after `FINAL`. -/
  | sequence
  /-- Code 3: an illegal command word. -/
  | illegalCmd
  /-- Code 4: `RESET`, `UPDATE` or `FINAL` before any `INIT`. -/
  | notInit
  deriving DecidableEq, Repr

/-- The register `STATUS` (R29), less `BUSY`, which is the presence of a pending command (R34, log 8), and
`ACTIVE`, which is the presence of a variant (R29, R251, log 8). Reserved bits are not stored (R39). -/
structure Status where
  /-- `FIN`, bit 2. -/
  fin : Bool
  /-- `ERR_BOUNDS`, bit 3. -/
  errBounds : Bool
  /-- `ERR_SEQ`, bit 4. -/
  errSeq : Bool
  /-- `ERR_CMD`, bit 5. -/
  errCmd : Bool
  /-- `ERR_NOINIT`, bit 6. -/
  errNoInit : Bool
  /-- `UNDEF`, bit 7. -/
  undef : Bool
  /-- `ECODE`, bits 11:8: the most recent error, `none` for code 0. -/
  ecode : Option ErrCode
  /-- `VARIANT`, bits 13:12: the latched variant, `none` for code 3. -/
  variant : Option Variant
  deriving DecidableEq, Repr

/-- Four 32-bit words: the accumulator file `ACC[0..3]` (R24), and the words `k1..k4` of a 16-byte block (R142). -/
structure Words4 where
  w0 : Word32
  w1 : Word32
  w2 : Word32
  w3 : Word32
  deriving DecidableEq, Repr

/-- Two 64-bit words: the accumulators `H1, H2` of `X64_128` (R25), and the words `k1, k2` of its blocks (R162). -/
structure Words2 where
  h1 : Word64
  h2 : Word64
  deriving DecidableEq, Repr

/-- The bytes of `BUF` that the host has written since hardware reset (R35), as address and byte. Canonical
form: addresses strictly rising. An unlisted address has no byte here; what it reads as is the free value of
`State.bufByte` (log 3). -/
structure Memory where
  cells : List Host.Cell
  deriving DecidableEq, Repr

/-- The canonical form of a memory: addresses strictly rising. -/
abbrev Memory.wf (m : Memory) : Prop := m.cells.Pairwise (fun c d => c.1 < d.1)

/-- One operation of the outside world on an instance. -/
inductive HostOp where
  /-- A host read of `width` bits at a window offset (30_encoding.md R75, 20_memory.md R53). -/
  | read (width offset : Nat)
  /-- A host write of `value`, `width` bits wide, at a window offset (R75, R53). -/
  | write (width offset : Nat) (value : Word32)
  /-- `WAIT`: read `STATUS` again and again while the value read shows `BUSY = 1` (R76). -/
  | wait
  /-- Hardware reset, driven by the platform (70_reset_and_hazards.md R250). -/
  | hwReset
  /-- An access of a second host agent that the platform has not serialised with this host's (R256, log 12). -/
  | unserialised
  deriving DecidableEq, Repr

/-- One access of the host's history (R60), as the (direction, offset, data) triple of R75. -/
inductive BusRecord where
  /-- `R`, window offset, value returned. -/
  | read (offset : Nat) (value : Word32)
  /-- `W`, window offset, data. -/
  | write (offset : Nat) (value : Word32)
  deriving DecidableEq, Repr

/-- The parameters of R6 that one instance depends on. They are not state of the hardware (R20); no step
changes them (log 1). -/
structure Params where
  /-- `BUF_BYTES`. -/
  bufBytes : Nat
  /-- `AUTO_SELECTS_X64`. -/
  autoSelectsX64 : Bool
  deriving DecidableEq, Repr

/-- One instance and what the outside world is still to do to it. -/
structure State where
  /-- `CFG` (R26). -/
  cfg : Cfg
  /-- `SEED` (R27). -/
  seed : Word32
  /-- `STATUS` (R29). -/
  status : Status
  /-- `OFFSET` (R30). -/
  offset : Word32
  /-- `LENGTH` (R31). -/
  length : Word32
  /-- The byte counter `LEN` (R32). -/
  len : Word64
  /-- `SEED_ACT` (R33). -/
  seedAct : Word32
  /-- The accumulator file `ACC[0..3]` (R24). -/
  acc : Words4
  /-- `PENDING` (R34). -/
  pending : Option Word32
  /-- `BUF` (R35). -/
  buf : Memory
  /-- A command has been issued and the host has not yet read `STATUS` with `BUSY = 0` (R254, R61, log 7). -/
  unsynced : Bool
  /-- The parameters `BUF_BYTES` and `AUTO_SELECTS_X64` (R6, log 1). -/
  params : Params
  /-- The operations of the outside world still to come, next first (log 5). The model's own. -/
  host : List HostOp
  /-- The host's history, newest first (R60, log 10). The model's own. -/
  trace : List BusRecord
  /-- Host operations still to go by before the pending command completes (R181, log 4; log 13). The model's own. -/
  delay : Nat
  /-- Delays placed from outside for the next commands (log 4). The model's own. -/
  delays : List Nat
  /-- Commands issued so far: the index into `Config.completionDelay` (log 4). The model's own. -/
  issued : Nat
  /-- Draws made so far: the index into `Config.draw` (log 2). The model's own. -/
  draws : Nat
  /-- Hardware resets so far: the index into `Config.bufDraw` (log 3). The model's own. -/
  resets : Nat
  /-- Which instance's draws these are (log 2). The model's own. -/
  stream : Nat
  deriving DecidableEq, Repr

/-- Why a step stops with a fault. There is no constructor: the block has no trap (60_exceptions.md R224), every
error is recorded in `STATUS` and the machine goes on (R221), and no behaviour is a stuck state
(93_implementation_defined.md). -/
inductive Fault where
  deriving DecidableEq, Repr

/-- Why a step is refused. A refusal is the refusal mark of 00_scope.md R13: the run ends in it, and a claim about
a run holds only where it does not occur (log 6). All are SAFE: the device might do something, and no claim can
say what. -/
inductive Refusal where
  /-- `exec` raises it for an instruction that has no meaning yet; no arm does. Safe. -/
  | notModelled (mnemonic : String)
  /-- A host access raises it whose width is not 32 bits (R53). Safe. -/
  | badWidth (width : Nat)
  /-- A host access raises it at an offset that is no multiple of 4 (R53). Safe. -/
  | misaligned (offset : Nat)
  /-- A host access at an offset that is not mapped raises it (R57). Safe. -/
  | unmapped (offset : Nat)
  /-- Any access but a `STATUS` read raises it between a `CMD` write and the `STATUS` read that shows `BUSY = 0`
  (R254). Safe. -/
  | busy (offset : Nat)
  /-- An access of a second, unserialised host agent raises it (R256). Safe. -/
  | concurrentHosts
  deriving DecidableEq, Repr

/-- `STATUS` after hardware reset: 0x00003000 (R29, R40). -/
def Status.reset : Status where
  fin := false
  errBounds := false
  errSeq := false
  errCmd := false
  errNoInit := false
  undef := false
  ecode := none
  variant := none

/-- The state right after hardware reset (R40, R250). The parameters and the model's own fields stand at the
values of logs 1 to 5 and 10. -/
def State.reset : State where
  cfg := { width := .w32, layout := .auto }
  seed := 0#32
  status := Status.reset
  offset := 0#32
  length := 0#32
  len := 0#64
  seedAct := 0#32
  acc := { w0 := 0#32, w1 := 0#32, w2 := 0#32, w3 := 0#32 }
  pending := none
  buf := { cells := [] }
  unsynced := false
  params := { bufBytes := Config.bufBytesDefault, autoSelectsX64 := Config.autoSelectsX64 }
  host := []
  trace := []
  delay := 0
  delays := []
  issued := 0
  draws := 0
  resets := 0
  stream := 0

end Sys2Proof.Machine
end

