-- ==== Sys2Proof/Machine/Ops.lean ====
section
/-!
DEFINITION. The named operations over the state: the bytes of `BUF` (00_scope.md R9, 10_state.md R35), issue and
retirement of a command (44_commands.md R180, R181), recording an error (60_exceptions.md R221), poisoning the
accumulators (44_commands.md R190), and hardware reset (70_reset_and_hazards.md R250).
-/
namespace Sys2Proof.Machine

/-! ### `BUF` -/

/-- The byte listed at `a`, if the host has written one since reset. -/
def lookupCell (a : Nat) : List Host.Cell → Option Byte
  | [] => none
  | (b, v) :: rest => if b = a then some v else lookupCell a rest

/-- List `v` at `a`, keeping the addresses rising. -/
def insertCell (a : Nat) (v : Byte) : List Host.Cell → List Host.Cell
  | [] => [(a, v)]
  | (b, w) :: rest =>
    if a < b then (a, v) :: (b, w) :: rest
    else if a = b then (a, v) :: rest
    else (b, w) :: insertCell a v rest

/-- The byte the host has written at `a` since reset, if any (R35). -/
def Memory.get? (m : Memory) (a : Nat) : Option Byte := lookupCell a m.cells

/-- Write one byte. -/
def Memory.set (m : Memory) (a : Nat) (v : Byte) : Memory := { cells := insertCell a v m.cells }

/-- Byte `i` of a word, bits `8i+7:8i` (R9). -/
def byteOf (v : Word32) (i : Nat) : Byte := v.extractLsb' (8 * i) 8

/-- `MemWrite(a, 4, v)` (R9, R54): byte `a + i` receives `v[8i+7:8i]`. -/
def Memory.write4 (m : Memory) (a : Nat) (v : Word32) : Memory :=
  (((m.set a (byteOf v 0)).set (a + 1) (byteOf v 1)).set (a + 2) (byteOf v 2)).set (a + 3) (byteOf v 3)

/-- `BUF[a]` (R9): the byte written since reset, else the draw this byte has held since reset (R35, R260). -/
def State.bufByte (s : State) (a : Nat) : Byte :=
  (s.buf.get? a).getD (Config.bufDraw s.stream s.resets a)

/-- `MemRead(a, n)` over a reader of bytes (R9): the little-endian value, the sum over `i < n` of the byte at
`a + i` shifted left by `8 * i`. -/
def memRead (rd : Nat → Byte) (a : Nat) : Nat → Nat
  | 0 => 0
  | n + 1 => memRead rd a n + (rd (a + n)).toNat <<< (8 * n)

/-! ### Lifecycle bits that share storage -/

/-- `STATUS.BUSY`: 1 exactly when `PENDING` holds a word (R34). -/
def State.busy (s : State) : Bool := s.pending.isSome

/-- `STATUS.ACTIVE`: 1 exactly when a variant is latched (R29, R251). -/
def State.active (s : State) : Bool := s.status.variant.isSome

/-! ### Issue and retirement -/

/-- The delay of the next command: the one placed from outside, else a free value (R181). -/
def State.nextDelay (s : State) : Nat :=
  s.delays.headD (Config.completionDelay s.stream s.issued)

/-- Command issue (R180): `PENDING <- w; STATUS.BUSY <- 1`. The host must now poll (R254). -/
def State.issue (w : Word32) (s : State) : State :=
  { s with
    pending := some w
    unsynced := true
    delay := s.nextDelay
    delays := s.delays.tail
    issued := s.issued + 1 }

/-- The end of a completion (R181): `STATUS.BUSY <- 0`, and `PENDING` is emptied. -/
def State.retire (s : State) : State := { s with pending := none, delay := 0 }

/-! ### Errors -/

/-- `STATUS.ECODE <- c; STATUS.<sticky bit of c> <- 1` (R221). -/
def Status.record (c : ErrCode) (st : Status) : Status :=
  match c with
  | .bounds => { st with ecode := some .bounds, errBounds := true }
  | .sequence => { st with ecode := some .sequence, errSeq := true }
  | .illegalCmd => { st with ecode := some .illegalCmd, errCmd := true }
  | .notInit => { st with ecode := some .notInit, errNoInit := true }

/-- The recording that `raise Error(c)` and `signal Error(c)` perform (R11, R221). A `raise` is this and the
end of the command. -/
def State.recordError (c : ErrCode) (s : State) : State := { s with status := s.status.record c }

/-- `CLRERR`'s effect on `STATUS` (R191). -/
def Status.clearErrors (st : Status) : Status :=
  { st with
    errBounds := false
    errSeq := false
    errCmd := false
    errNoInit := false
    ecode := none }

/-- The draw number `k` counted from the next one (R11, R190). -/
def State.drawAt (s : State) (k : Nat) : Word32 := Config.draw s.stream (s.draws + k)

/-- What `poison()` leaves in the accumulators (R190): one draw in `H32`, whose other words stay as they are,
else four. -/
def State.poisonedAcc (s : State) : Words4 :=
  if s.status.variant = some .h32 then { s.acc with w0 := s.drawAt 0 }
  else { w0 := s.drawAt 0, w1 := s.drawAt 1, w2 := s.drawAt 2, w3 := s.drawAt 3 }

/-- How many draws `poison()` makes (R190). -/
def State.poisonDraws (s : State) : Nat := if s.status.variant = some .h32 then 1 else 4

/-- `poison()` (R190). -/
def State.poison (s : State) : State :=
  { s with
    status := { s.status with undef := true }
    acc := s.poisonedAcc
    draws := s.draws + s.poisonDraws }

/-- `LEN <- (LEN + n) mod 2^64` (R188). -/
def State.addLen (n : Nat) (s : State) : State := { s with len := s.len + BitVec.ofNat 64 n }

/-! ### Hardware reset -/

/-- Hardware reset (R250): every register takes its value of R40, a command in progress is discarded, and the
bytes of `BUF` become fresh draws. The parameters and the model's own record of the outside world stay (log 15). -/
def State.hardwareReset (s : State) : State :=
  { State.reset with
    params := s.params
    host := s.host
    trace := s.trace
    delays := s.delays
    issued := s.issued
    draws := s.draws
    resets := s.resets + 1
    stream := s.stream }

end Sys2Proof.Machine
end

