-- ==== Sys2Proof/Machine/Primitives.lean ====
section
/-!
DEFINITION. The mixing primitives (40_primitives.md R100 to R105): pure functions on words, modulo the word
width.
-/
namespace Sys2Proof.Machine

/-- `rotl32(x, n)`, for `n` in 0..31 (R100). -/
def rotl32 (x : Word32) (n : Nat) : Word32 :=
  if n = 0 then x else (x <<< n) ||| (x >>> (32 - n))

/-- `rotl64(x, n)`, for `n` in 0..63 (R101). -/
def rotl64 (x : Word64) (n : Nat) : Word64 :=
  if n = 0 then x else (x <<< n) ||| (x >>> (64 - n))

/-- `x ^ (x >> n)` on 32-bit words. -/
def xorShift32 (n : Nat) (x : Word32) : Word32 := x ^^^ (x >>> n)

/-- `x ^ (x >> n)` on 64-bit words. -/
def xorShift64 (n : Nat) (x : Word64) : Word64 := x ^^^ (x >>> n)

/-- `fmix32(x)`, the 32-bit finalization avalanche (R102). -/
def fmix32 (x : Word32) : Word32 :=
  let x := xorShift32 16 x
  let x := x * 0x85ebca6b#32
  let x := xorShift32 13 x
  let x := x * 0xc2b2ae35#32
  xorShift32 16 x

/-- `fmix64(x)`, the 64-bit finalization avalanche (R103). -/
def fmix64 (x : Word64) : Word64 :=
  let x := xorShift64 33 x
  let x := x * 0xff51afd7ed558ccd#64
  let x := xorShift64 33 x
  let x := x * 0xc4ceb9fe1a85ec53#64
  xorShift64 33 x

end Sys2Proof.Machine
end

