-- ==== Sys2Proof/Machine/HashH32.lean ====
section
/-!
DEFINITION. The Hash32 engine, variant `H32` (41_hash32.md R120 to R129). `rd a` is `BUF[a]`.
-/
namespace Sys2Proof.Machine

/-- `C1` of `H32` (R120). -/
def h32C1 : Word32 := 0xcc9e2d51#32

/-- `C2` of `H32` (R120). -/
def h32C2 : Word32 := 0x1b873593#32

/-- The construction state (R121). -/
def construct32 (seed : Word32) : Words4 := { w0 := seed, w1 := 0#32, w2 := 0#32, w3 := 0#32 }

/-- The mixing of one block or tail word (R122). -/
def kmix32 (k : Word32) : Word32 := rotl32 (k * h32C1) 15 * h32C2

/-- Block decode (R123). -/
def blockWord32 (rd : Nat → Byte) (a : Nat) : Word32 := BitVec.ofNat 32 (memRead rd a 4)

/-- The per-block accumulator update (R124). -/
def block32 (h k : Word32) : Word32 := rotl32 (h ^^^ kmix32 k) 13 * 5#32 + 0xe6546b64#32

/-- The loop of tail assembly (R125), from the highest remaining byte down. -/
def tailLoop32 (rd : Nat → Byte) (t : Nat) : (k : Word32) → (r : Nat) → Word32
  | k, 0 => k
  | k, i + 1 => tailLoop32 rd t (k ^^^ ((rd (t + i)).zeroExtend 32 <<< (8 * i))) i

/-- Tail assembly (R125). -/
def tailWord32 (rd : Nat → Byte) (t r : Nat) : Word32 := tailLoop32 rd t 0#32 r

/-- The tail fold: the xor term only (R126). -/
def tail32 (h k : Word32) : Word32 := h ^^^ kmix32 k

/-- The first `nb` blocks from address `a` on, in ascending order (R127). -/
def blocks32 (rd : Nat → Byte) (h : Word32) (a : Nat) : (nb : Nat) → Word32
  | 0 => h
  | nb + 1 => block32 (blocks32 rd h a nb) (blockWord32 rd (a + 4 * nb))

/-- Absorption of `n` bytes from address `a` (R127): the blocks, then this call's tail. -/
def absorb32 (rd : Nat → Byte) (h : Word32) (a n : Nat) : Word32 :=
  let h' := blocks32 rd h a (n / 4)
  if n % 4 = 0 then h' else tail32 h' (tailWord32 rd (a + 4 * (n / 4)) (n % 4))

/-- The fold-down (R128). -/
def final32 (h : Word32) (len : Word64) : Word32 := fmix32 (h ^^^ len.extractLsb' 0 32)

end Sys2Proof.Machine
end

