-- ==== Sys2Proof/Machine/HashX64.lean ====
section
/-!
DEFINITION. The Hash128-x64 engine, variant `X64_128` (43_hash128_x64.md R160 to R169). The accumulators and block
words are pairs of 64-bit words; `rd a` is `BUF[a]`.
-/
namespace Sys2Proof.Machine

/-- `C1` (R160). -/
def x64C1 : Word64 := 0x87c37b91114253d5#64

/-- `C2` (R160). -/
def x64C2 : Word64 := 0x4cf5ad432745937f#64

/-- The view `H1 = {ACC[1], ACC[0]}`, `H2 = {ACC[3], ACC[2]}` (R25). -/
def Words4.toPair (a : Words4) : Words2 := { h1 := a.w1 ++ a.w0, h2 := a.w3 ++ a.w2 }

/-- A write to the view writes its storage words (R25). -/
def Words2.toWords (p : Words2) : Words4 where
  w0 := p.h1.extractLsb' 0 32
  w1 := p.h1.extractLsb' 32 32
  w2 := p.h2.extractLsb' 0 32
  w3 := p.h2.extractLsb' 32 32

/-- The construction state: the seed widened by zero-extension (R161). -/
def construct64 (seed : Word32) : Words2 := { h1 := seed.zeroExtend 64, h2 := seed.zeroExtend 64 }

/-- Block decode (R162). -/
def blockWords64 (rd : Nat → Byte) (a : Nat) : Words2 where
  h1 := BitVec.ofNat 64 (memRead rd a 8)
  h2 := BitVec.ofNat 64 (memRead rd (a + 8) 8)

/-- `kmix64_1(k)` (R163). -/
def kmix64a (k : Word64) : Word64 := rotl64 (k * x64C1) 31 * x64C2

/-- `kmix64_2(k)` (R163). -/
def kmix64b (k : Word64) : Word64 := rotl64 (k * x64C2) 33 * x64C1

/-- The per-block accumulator update (R164): line 1 adds the old `H2`, line 2 the new `H1`. -/
def block64 (h k : Words2) : Words2 :=
  let h1 := (rotl64 (h.h1 ^^^ kmix64a k.h1) 27 + h.h2) * 5#64 + 0x52dce729#64
  let h2 := (rotl64 (h.h2 ^^^ kmix64b k.h2) 31 + h1) * 5#64 + 0x38495ab5#64
  { h1 := h1, h2 := h2 }

/-- The loop of tail assembly (R165), from the highest remaining byte down. -/
def tailLoop64 (rd : Nat → Byte) (t : Nat) : (k : Words2) → (r : Nat) → Words2
  | k, 0 => k
  | k, i + 1 =>
    tailLoop64 rd t
      (if i ≥ 8 then { k with h2 := k.h2 ^^^ ((rd (t + i)).zeroExtend 64 <<< (8 * (i - 8))) }
       else { k with h1 := k.h1 ^^^ ((rd (t + i)).zeroExtend 64 <<< (8 * i)) }) i

/-- Tail assembly (R165). -/
def tailWords64 (rd : Nat → Byte) (t r : Nat) : Words2 :=
  tailLoop64 rd t { h1 := 0#64, h2 := 0#64 } r

/-- The tail fold (R166). -/
def tail64 (h k : Words2) (r : Nat) : Words2 :=
  let h := if r > 8 then { h with h2 := h.h2 ^^^ kmix64b k.h2 } else h
  { h with h1 := h.h1 ^^^ kmix64a k.h1 }

/-- The first `nb` blocks from address `a` on, in ascending order (R167). -/
def blocks64 (rd : Nat → Byte) (h : Words2) (a : Nat) : (nb : Nat) → Words2
  | 0 => h
  | nb + 1 => block64 (blocks64 rd h a nb) (blockWords64 rd (a + 16 * nb))

/-- Absorption of `n` bytes from address `a` (R167). -/
def absorb64 (rd : Nat → Byte) (h : Words2) (a n : Nat) : Words2 :=
  let h' := blocks64 rd h a (n / 16)
  if n % 16 = 0 then h' else tail64 h' (tailWords64 rd (a + 16 * (n / 16)) (n % 16)) (n % 16)

/-- The addition step of finalization (R168): `H2` adds the new `H1`. -/
def cross64 (h : Words2) : Words2 := { h1 := h.h1 + h.h2, h2 := h.h2 + (h.h1 + h.h2) }

/-- Apply a function to both words. -/
def Words2.map (f : Word64 → Word64) (h : Words2) : Words2 := { h1 := f h.h1, h2 := f h.h2 }

/-- The fold-down, by all 64 bits of the counter (R168). -/
def final64 (h : Words2) (len : Word64) : Words2 :=
  cross64 ((cross64 (h.map (· ^^^ len))).map fmix64)

end Sys2Proof.Machine
end

