-- ==== Sys2Proof/Machine/HashX86.lean ====
section
/-!
DEFINITION. The Hash128-x86 engine, variant `X86_128` (42_hash128_x86.md R140 to R150). The accumulators
`H1..H4` and the block words `k1..k4` are the words `w0..w3`; `rd a` is `BUF[a]`.
-/
namespace Sys2Proof.Machine

/-- `C1` (R140). -/
def x86C1 : Word32 := 0x239b961b#32

/-- `C2` (R140). -/
def x86C2 : Word32 := 0xab0e9789#32

/-- `C3` (R140). -/
def x86C3 : Word32 := 0x38b34ae5#32

/-- `C4` (R140). -/
def x86C4 : Word32 := 0xa1e38b93#32

/-- The four lanes, 1 to 4 (R140). -/
inductive Lane where
  | l1
  | l2
  | l3
  | l4
  deriving DecidableEq, Repr

/-- `kmix86(n, k)` (R143), with the multipliers and rotation of lane `n` in R140. -/
def kmix86 (n : Lane) (k : Word32) : Word32 :=
  match n with
  | .l1 => rotl32 (k * x86C1) 15 * x86C2
  | .l2 => rotl32 (k * x86C2) 16 * x86C3
  | .l3 => rotl32 (k * x86C3) 17 * x86C4
  | .l4 => rotl32 (k * x86C4) 18 * x86C1

/-- The construction state (R141). -/
def construct86 (seed : Word32) : Words4 := { w0 := seed, w1 := seed, w2 := seed, w3 := seed }

/-- Block decode (R142). -/
def blockWords86 (rd : Nat → Byte) (a : Nat) : Words4 where
  w0 := BitVec.ofNat 32 (memRead rd a 4)
  w1 := BitVec.ofNat 32 (memRead rd (a + 4) 4)
  w2 := BitVec.ofNat 32 (memRead rd (a + 8) 4)
  w3 := BitVec.ofNat 32 (memRead rd (a + 12) 4)

/-- The per-block accumulator update (R144), line by line: lanes 1 to 3 add the next lane's old accumulator,
lane 4 adds the new `H1`. -/
def block86 (h k : Words4) : Words4 :=
  let h1 := (rotl32 (h.w0 ^^^ kmix86 .l1 k.w0) 19 + h.w1) * 5#32 + 0x561ccd1b#32
  let h2 := (rotl32 (h.w1 ^^^ kmix86 .l2 k.w1) 17 + h.w2) * 5#32 + 0x0bcaa747#32
  let h3 := (rotl32 (h.w2 ^^^ kmix86 .l3 k.w2) 15 + h.w3) * 5#32 + 0x96cd1c35#32
  let h4 := (rotl32 (h.w3 ^^^ kmix86 .l4 k.w3) 13 + h1) * 5#32 + 0x32ac3b17#32
  { w0 := h1, w1 := h2, w2 := h3, w3 := h4 }

/-- Xor `v` into word number `i` of four (R145's `k_(1 + i)`). -/
def Words4.xorAt (k : Words4) (i : Nat) (v : Word32) : Words4 :=
  match i with
  | 0 => { k with w0 := k.w0 ^^^ v }
  | 1 => { k with w1 := k.w1 ^^^ v }
  | 2 => { k with w2 := k.w2 ^^^ v }
  | 3 => { k with w3 := k.w3 ^^^ v }
  | _ => k

/-- The loop of tail assembly (R145), from the highest remaining byte down: byte `i` goes to word `i div 4` at bit
`8 * (i mod 4)`. -/
def tailLoop86 (rd : Nat → Byte) (t : Nat) : (k : Words4) → (r : Nat) → Words4
  | k, 0 => k
  | k, i + 1 =>
    tailLoop86 rd t (k.xorAt (i / 4) ((rd (t + i)).zeroExtend 32 <<< (8 * (i % 4)))) i

/-- Tail assembly (R145). -/
def tailWords86 (rd : Nat → Byte) (t r : Nat) : Words4 :=
  tailLoop86 rd t { w0 := 0#32, w1 := 0#32, w2 := 0#32, w3 := 0#32 } r

/-- The tail fold (R146), in MHN's descending order. -/
def tail86 (h k : Words4) (r : Nat) : Words4 :=
  let h := if r > 12 then { h with w3 := h.w3 ^^^ kmix86 .l4 k.w3 } else h
  let h := if r > 8 then { h with w2 := h.w2 ^^^ kmix86 .l3 k.w2 } else h
  let h := if r > 4 then { h with w1 := h.w1 ^^^ kmix86 .l2 k.w1 } else h
  { h with w0 := h.w0 ^^^ kmix86 .l1 k.w0 }

/-- The first `nb` blocks from address `a` on, in ascending order (R147). -/
def blocks86 (rd : Nat → Byte) (h : Words4) (a : Nat) : (nb : Nat) → Words4
  | 0 => h
  | nb + 1 => block86 (blocks86 rd h a nb) (blockWords86 rd (a + 16 * nb))

/-- Absorption of `n` bytes from address `a` (R147). -/
def absorb86 (rd : Nat → Byte) (h : Words4) (a n : Nat) : Words4 :=
  let h' := blocks86 rd h a (n / 16)
  if n % 16 = 0 then h' else tail86 h' (tailWords86 rd (a + 16 * (n / 16)) (n % 16)) (n % 16)

/-- The cross-addition (R148): `H2`, `H3` and `H4` add the new `H1`. -/
def cross86 (h : Words4) : Words4 :=
  let h1 := h.w0 + h.w1 + h.w2 + h.w3
  { w0 := h1, w1 := h.w1 + h1, w2 := h.w2 + h1, w3 := h.w3 + h1 }

/-- Apply a function to each word. -/
def Words4.map (f : Word32 → Word32) (h : Words4) : Words4 :=
  { w0 := f h.w0, w1 := f h.w1, w2 := f h.w2, w3 := f h.w3 }

/-- The fold-down (R149). -/
def final86 (h : Words4) (len : Word64) : Words4 :=
  cross86 ((cross86 (h.map (· ^^^ len.extractLsb' 0 32))).map fmix32)

end Sys2Proof.Machine
end

