-- ==== Sys2Proof/Machine/Engine.lean ====
section
/-!
DEFINITION. The engine rules a variant selects (the table at the head of 44_commands.md), over the accumulator file
(10_state.md R25), and the digest (44_commands.md R194).
-/
namespace Sys2Proof.Machine

/-- The block size B in bytes (00_scope.md R2). -/
def Variant.blockBytes : Variant → Nat
  | .h32 => 4
  | .x86 => 16
  | .x64 => 16

/-- The digest size in bytes (R2). -/
def Variant.digestBytes : Variant → Nat
  | .h32 => 4
  | .x86 => 16
  | .x64 => 16

/-- `construct_V(seed)` (R121, R141, R161). -/
def constructAcc (v : Variant) (seed : Word32) : Words4 :=
  match v with
  | .h32 => construct32 seed
  | .x86 => construct86 seed
  | .x64 => (construct64 seed).toWords

/-- `absorb_V(a, n)` (R127, R147, R167). `H32` writes `ACC[0]` only (R37). -/
def absorbAcc (v : Variant) (rd : Nat → Byte) (acc : Words4) (a n : Nat) : Words4 :=
  match v with
  | .h32 => { acc with w0 := absorb32 rd acc.w0 a n }
  | .x86 => absorb86 rd acc a n
  | .x64 => (absorb64 rd acc.toPair a n).toWords

/-- `final_V(accumulators, LEN)` (R128, R149, R168). -/
def finalAcc (v : Variant) (acc : Words4) (len : Word64) : Words4 :=
  match v with
  | .h32 => { acc with w0 := final32 acc.w0 len }
  | .x86 => final86 acc len
  | .x64 => (final64 acc.toPair len).toWords

/-- The accumulator file as 16 bytes, `ACC[0]` first, each word little-endian (R25, R194). -/
def Words4.bytes (a : Words4) : List Byte :=
  [a.w0, a.w1, a.w2, a.w3].flatMap (fun w => [byteOf w 0, byteOf w 1, byteOf w 2, byteOf w 3])

/-- The digest of a session, defined when `FIN = 1` and `UNDEF = 0` (R194). -/
def State.digest (s : State) : Option (List Byte) :=
  match s.status.variant with
  | some v => if s.status.fin && !s.status.undef then some (s.acc.bytes.take v.digestBytes) else none
  | none => none

end Sys2Proof.Machine
end

