-- ==== Sys2Proof/Machine/Flags.lean ====
section
/-!
DEFINITION. `STATUS` and `CFG` as the words the host reads and writes (10_state.md R26, R29, R39;
30_encoding.md R74). The hash arithmetic writes no flag (40_primitives.md R105).
-/
namespace Sys2Proof.Machine

/-- The code of a variant in `STATUS.VARIANT`; 3 when none is constructed (R74). -/
def variantCode : Option Variant → BitVec 2
  | some .h32 => 0#2
  | some .x86 => 1#2
  | some .x64 => 2#2
  | none => 3#2

/-- The code of an error in `STATUS.ECODE`; 0 for none (R74, R220). -/
def errCodeNum : Option ErrCode → BitVec 4
  | none => 0#4
  | some .bounds => 1#4
  | some .sequence => 2#4
  | some .illegalCmd => 3#4
  | some .notInit => 4#4

/-- A flag as one bit. -/
def bit (b : Bool) : BitVec 1 := BitVec.ofBool b

/-- A field whose lowest bit is bit `lo` of a register word (R7). -/
def field {n : Nat} (lo : Nat) (v : BitVec n) : Word32 := v.zeroExtend 32 <<< lo

/-- The word `STATUS` reads, field by field (R29). Bits 31:14 are 0. -/
def State.statusWord (s : State) : Word32 :=
  field 0 (bit s.busy) ||| field 1 (bit s.active) ||| field 2 (bit s.status.fin) |||
    field 3 (bit s.status.errBounds) ||| field 4 (bit s.status.errSeq) ||| field 5 (bit s.status.errCmd) |||
    field 6 (bit s.status.errNoInit) ||| field 7 (bit s.status.undef) |||
    field 8 (errCodeNum s.status.ecode) ||| field 12 (variantCode s.status.variant)

/-- `CFG.WIDTH` as a bit (R26). -/
def Width.code : Width → BitVec 1
  | .w32 => 0#1
  | .w128 => 1#1

/-- `CFG.LAYOUT` as two bits (R26). -/
def Layout.code : Layout → BitVec 2
  | .auto => 0#2
  | .x86 => 1#2
  | .x64 => 2#2

/-- The word `CFG` reads (R26): bits 31:3 are 0. -/
def Cfg.toWord (c : Cfg) : Word32 := field 0 c.width.code ||| field 1 c.layout.code

/-- The layout that a write of the field `LAYOUT` leaves: the value 3 leaves the old one (R26). -/
def Layout.write (old : Layout) (v : BitVec 2) : Layout :=
  if v = 0#2 then .auto else if v = 1#2 then .x86 else if v = 2#2 then .x64 else old

/-- A host write of `CFG` (R26, R39). -/
def Cfg.write (c : Cfg) (v : Word32) : Cfg where
  width := if v.extractLsb' 0 1 = 0#1 then .w32 else .w128
  layout := c.layout.write (v.extractLsb' 1 2)

end Sys2Proof.Machine
end

