-- ==== Sys2Proof/Machine/Operands.lean ====
section
/-!
DEFINITION. The operands of the commands (30_encoding.md R73): the variant `INIT` selects (44_commands.md R183),
the signed arguments of `UPDATE` and their check (44_commands.md R187), and the bytes it reads.
-/
namespace Sys2Proof.Machine

/-- `sel(WIDTH, LAYOUT)` (R183). -/
def selectVariant (autoSelectsX64 : Bool) (c : Cfg) : Variant :=
  match c.width, c.layout with
  | .w32, _ => .h32
  | .w128, .x86 => .x86
  | .w128, .x64 => .x64
  | .w128, .auto => if autoSelectsX64 then .x64 else .x86

/-- The variant the next `INIT` constructs (R26, R183). -/
def State.selected (s : State) : Variant := selectVariant s.params.autoSelectsX64 s.cfg

/-- `sint32(OFFSET)` (R30, R73). -/
def State.updOffset (s : State) : Int := s.offset.toInt

/-- `sint32(LENGTH)` (R31, R73). -/
def State.updLength (s : State) : Int := s.length.toInt

/-- The check of `UPDATE`'s arguments fails (R187), on mathematical integers. -/
def badBounds (bufBytes : Nat) (o n : Int) : Bool :=
  o < 0 || n < 0 || o + n > (bufBytes : Int)

/-- `UPDATE`'s arguments are out of bounds (R187). -/
def State.outOfBounds (s : State) : Bool := badBounds s.params.bufBytes s.updOffset s.updLength

/-- The bytes `BUF[a .. a+n-1]`. -/
def State.bufBytesAt (s : State) (a n : Nat) : List Byte := (List.range n).map (fun i => s.bufByte (a + i))

/-- The bytes an accepted `UPDATE` absorbs (R188). -/
def State.updBytes (s : State) : List Byte := s.bufBytesAt s.updOffset.toNat s.updLength.toNat

end Sys2Proof.Machine
end

