-- ==== Sys2Proof/Machine/Commands.lean ====
section
/-!
DEFINITION. The meaning of each command (44_commands.md R184 to R191), performed at completion on the state with
the command still pending; the step clears `BUSY` around it (R181).
-/
namespace Sys2Proof.Machine

/-- `construct()` (R185), shared by `INIT` and `RESET`. -/
def State.construct (v : Variant) (s : State) : State :=
  { s with
    acc := constructAcc v s.seedAct
    len := 0#64
    status := { s.status with fin := false, undef := false } }

/-- The latching that `INIT` does before it constructs (R185): `VARIANT` (and with it `ACTIVE`) and `SEED_ACT`. -/
def State.latch (s : State) : State :=
  { s with
    status := { s.status with variant := some s.selected }
    seedAct := s.seed }

/-- `signal Error(SEQUENCE)`, then `poison()` (R188, R189). -/
def State.misuse (s : State) : State := (s.recordError .sequence).poison

/-- `absorb_V(o, n)` on the state (R188). -/
def State.absorb (v : Variant) (s : State) : State :=
  { s with acc := absorbAcc v s.bufByte s.acc s.updOffset.toNat s.updLength.toNat }

/-- `final_V(accumulators, LEN)`, then `STATUS.FIN <- 1` (R189). -/
def State.finalize (v : Variant) (s : State) : State :=
  { s with
    acc := finalAcc v s.acc s.len
    status := { s.status with fin := true } }

/-- `NOP` (R184). -/
def execNop (s : State) : Host.Outcome State Fault Refusal := .next s

/-- `INIT` (R185). -/
def execInit (s : State) : Host.Outcome State Fault Refusal := .next (s.latch.construct s.selected)

/-- `RESET` (R186). -/
def execReset (s : State) : Host.Outcome State Fault Refusal :=
  match s.status.variant with
  | none => .next (s.recordError .notInit)
  | some v => .next (s.construct v)

/-- `UPDATE` (R187, R188). -/
def execUpdate (s : State) : Host.Outcome State Fault Refusal :=
  match s.status.variant with
  | none => .next (s.recordError .notInit)
  | some v =>
    if s.outOfBounds then .next (s.recordError .bounds)
    else if s.status.fin then .next (s.misuse.addLen s.updLength.toNat)
    else .next ((s.absorb v).addLen s.updLength.toNat)

/-- `FINAL` (R189). -/
def execFinal (s : State) : Host.Outcome State Fault Refusal :=
  match s.status.variant with
  | none => .next (s.recordError .notInit)
  | some v =>
    if s.status.fin then .next s.misuse
    else .next (s.finalize v)

/-- `CLRERR` (R191). -/
def execClrerr (s : State) : Host.Outcome State Fault Refusal :=
  .next { s with status := s.status.clearErrors }

end Sys2Proof.Machine
end

