-- ==== Sys2Proof/Machine/Dispatch.lean ====
section
/-!
DEFINITION. The dispatch of a decoded command to its meaning (44_commands.md R182).
-/
namespace Sys2Proof.Machine

def exec (i : Instr) (s : State) : Host.Outcome State Fault Refusal :=
  match i with
  | .nop => Sys2Proof.Machine.execNop s
  | .init => Sys2Proof.Machine.execInit s
  | .reset => Sys2Proof.Machine.execReset s
  | .update => Sys2Proof.Machine.execUpdate s
  | .final => Sys2Proof.Machine.execFinal s
  | .clrerr => Sys2Proof.Machine.execClrerr s

end Sys2Proof.Machine
end

