-- ==== Sys2Proof/Machine/HostAccess.lean ====
section
/-!
DEFINITION. The host's side: the window's address map (10_state.md R22, 20_memory.md R52), the accesses to it and
which of them are refused (20_memory.md R53, R54, R57, R58; 10_state.md R38; 70_reset_and_hazards.md R254), and
one step of the outside world.
-/
namespace Sys2Proof.Machine

/-- The registers of R22. -/
inductive Reg where
  | id
  | cfg
  | seed
  | cmd
  | status
  | offset
  | length
  | lenLo
  | lenHi
  | seedAct
  | acc0
  | acc1
  | acc2
  | acc3
  deriving DecidableEq, Repr

/-- The offset column of R22. -/
def Reg.addr : Reg → Nat
  | .id => 0x000
  | .cfg => 0x004
  | .seed => 0x008
  | .cmd => 0x00C
  | .status => 0x010
  | .offset => 0x014
  | .length => 0x018
  | .lenLo => 0x01C
  | .lenHi => 0x020
  | .seedAct => 0x024
  | .acc0 => 0x028
  | .acc1 => 0x02C
  | .acc2 => 0x030
  | .acc3 => 0x034

/-- Every register, in the order of R22. -/
def allRegs : List Reg :=
  [.id, .cfg, .seed, .cmd, .status, .offset, .length, .lenLo, .lenHi, .seedAct, .acc0, .acc1, .acc2, .acc3]

/-- What an access reaches: a register, or the buffer word at address `a` of `BUF`. -/
inductive Target where
  | reg (r : Reg)
  | buf (a : Nat)
  deriving DecidableEq, Repr

/-- The register at an offset (R22). -/
def regAt (off : Nat) : Option Reg := allRegs.find? (fun r => r.addr == off)

/-- What the window holds at an offset (R22, R54), `none` where it is unmapped (R57). -/
def windowTarget (bufBytes off : Nat) : Option Target :=
  match regAt off with
  | some r => some (.reg r)
  | none =>
    if Config.bufBase ≤ off ∧ off - Config.bufBase + 4 ≤ bufBytes then some (.buf (off - Config.bufBase))
    else none

/-- The host may only read `STATUS`: a command is pending, or it has been issued and the host has not yet seen
`BUSY = 0` (R254, R61). -/
def State.mustPoll (s : State) : Bool := s.busy || s.unsynced

/-- The target of an access, or why it is refused. `poll` says which targets may be reached while the host must
poll. The order in which the checks are made is not the spec's (log 16). -/
def State.access (s : State) (poll : Target → Bool) (width off : Nat) : Except Refusal Target :=
  if width ≠ 32 then .error (.badWidth width)
  else if off % 4 ≠ 0 then .error (.misaligned off)
  else
    match windowTarget s.params.bufBytes off with
    | none => .error (.unmapped off)
    | some t => if s.mustPoll && !poll t then .error (.busy off) else .ok t

/-- The target of a read: `STATUS` may always be read (R254). -/
def State.readAccess (s : State) (width off : Nat) : Except Refusal Target :=
  s.access (fun t => t == .reg .status) width off

/-- The target of a write: none is permitted while the host must poll (R254). -/
def State.writeAccess (s : State) (width off : Nat) : Except Refusal Target :=
  s.access (fun _ => false) width off

/-- The buffer word at `a`, little-endian (R54). -/
def State.bufWord (s : State) (a : Nat) : Word32 := BitVec.ofNat 32 (memRead s.bufByte a 4)

/-- What a register reads (R22 to R33). -/
def State.readReg (s : State) (r : Reg) : Word32 :=
  match r with
  | .id => Config.idValue
  | .cfg => s.cfg.toWord
  | .seed => s.seed
  | .cmd => 0#32
  | .status => s.statusWord
  | .offset => s.offset
  | .length => s.length
  | .lenLo => s.len.extractLsb' 0 32
  | .lenHi => s.len.extractLsb' 32 32
  | .seedAct => s.seedAct
  | .acc0 => s.acc.w0
  | .acc1 => s.acc.w1
  | .acc2 => s.acc.w2
  | .acc3 => s.acc.w3

/-- A write to a register: `CMD` issues (R180), read-only registers ignore it (R38). -/
def State.writeReg (r : Reg) (v : Word32) (s : State) : State :=
  match r with
  | .cfg => { s with cfg := s.cfg.write v }
  | .seed => { s with seed := v }
  | .cmd => s.issue v
  | .offset => { s with offset := v }
  | .length => { s with length := v }
  | .id | .status | .lenLo | .lenHi | .seedAct | .acc0 | .acc1 | .acc2 | .acc3 => s

/-- The value a read returns. -/
def State.readTarget (s : State) (t : Target) : Word32 :=
  match t with
  | .reg r => s.readReg r
  | .buf a => s.bufWord a

/-- The effect of a write (R54, R58). -/
def State.writeTarget (t : Target) (v : Word32) (s : State) : State :=
  match t with
  | .reg r => s.writeReg r v
  | .buf a => { s with buf := s.buf.write4 a v }

/-- An access enters the history, and one more operation has gone by while the engine works. -/
def State.log (rec : BusRecord) (s : State) : State :=
  { s with trace := rec :: s.trace, delay := s.delay - 1 }

/-- A read of `STATUS` that shows `BUSY = 0` orders the command's effects before every later access (R61), so the
host need not poll any more (R254). -/
def State.observed (t : Target) (s : State) : State :=
  if t = .reg .status ∧ s.busy = false then { s with unsynced := false } else s

/-- A host read (R54, R58). -/
def State.hostRead (width off : Nat) (s : State) : Host.Outcome State Fault Refusal :=
  match s.readAccess width off with
  | .error r => .refused r
  | .ok t => .next ((s.log (.read off (s.readTarget t))).observed t)

/-- A host write (R54, R58). -/
def State.hostWrite (width off : Nat) (v : Word32) (s : State) : Host.Outcome State Fault Refusal :=
  match s.writeAccess width off with
  | .error r => .refused r
  | .ok t => .next ((s.log (.write off v)).writeTarget t v)

/-- One read of `WAIT`'s loop (R76), by which the host sees `BUSY`. -/
def State.poll (s : State) : State :=
  (s.log (.read Reg.status.addr s.statusWord)).observed (.reg .status)

/-- One operation of the outside world. `rest` is what is still to come after it. -/
def State.perform (op : HostOp) (rest : List HostOp) (s : State) : Host.Outcome State Fault Refusal :=
  match op with
  | .read width off => ({ s with host := rest } : State).hostRead width off
  | .write width off v => ({ s with host := rest } : State).hostWrite width off v
  | .wait => .next (if s.busy then s.poll else ({ s with host := rest } : State).poll)
  | .hwReset => .next ({ s with host := rest } : State).hardwareReset
  | .unserialised => .refused .concurrentHosts

/-- One step of the outside world. With nothing to come, the instance does nothing (60_exceptions.md R232,
log 9). -/
def State.hostStep (s : State) : Host.Outcome State Fault Refusal :=
  match s.host with
  | [] => .next s
  | op :: rest => s.perform op rest

end Sys2Proof.Machine
end

