-- ==== Sys2Proof/Machine/Complete.lean ====
section
/-!
DEFINITION. Completion of the pending command (44_commands.md R181, R182), which is where a command word is fetched
from `PENDING`, decoded and performed.
-/
namespace Sys2Proof.Machine

/-- The command that completes at this step. The engine's step is enabled exactly when `BUSY = 1` (R181), and it is
taken when the delay has gone by or the outside world has nothing to do (log 4). -/
def State.due (s : State) : Option Word32 :=
  if s.delay = 0 ∨ s.host = [] then s.pending else none

/-- What completion adds to a command's own effect: `BUSY` is cleared and `PENDING` emptied (R181). -/
def retired (o : Host.Outcome State Fault Refusal) : Host.Outcome State Fault Refusal :=
  match o with
  | .next t => .next t.retire
  | .fault f => .fault f
  | .refused r => .refused r

/-- Completion of command word `w` (R181, R182). An illegal word records `ILLEGAL_CMD` and does nothing else
(R72). -/
def State.complete (w : Word32) (s : State) : Host.Outcome State Fault Refusal :=
  match decode w with
  | .ok i => retired (exec i s)
  | .error _ => retired (.next (s.recordError .illegalCmd))

/-- The state in which word `w` has been written to `CMD` and its completion is due at the next step (log 14). -/
def State.place (w : Word32) (s : State) : State :=
  { s with pending := some w, unsynced := true, delay := 0 }

end Sys2Proof.Machine
end

