-- ==== Sys2Proof/Machine/HostProgram.lean ====
section
/-!
DEFINITION. The assembler's syntax and its pseudo-instructions (30_encoding.md R75, R76), as the host operations they
stand for.
-/
namespace Sys2Proof.Machine

/-- `WR <reg>, <imm32>` (R75). -/
def asmWr (r : Reg) (v : Word32) : List HostOp := [.write 32 r.addr v]

/-- `RD <reg>` (R75). -/
def asmRd (r : Reg) : List HostOp := [.read 32 r.addr]

/-- `WRB <a>, <imm32>` (R75). -/
def asmWrb (a : Nat) (v : Word32) : List HostOp := [.write 32 (Config.bufBase + a) v]

/-- `RDB <a>` (R75). -/
def asmRdb (a : Nat) : List HostOp := [.read 32 (Config.bufBase + a)]

/-- `CMD <imm32>` (R75). -/
def asmCmd (w : Word32) : List HostOp := asmWr .cmd w

/-- A command's own name: the write of its word to `CMD` (R75). -/
def asmInstr (i : Instr) : List HostOp := asmCmd (encode i)

/-- `WAIT` (R76). -/
def asmWait : List HostOp := [.wait]

/-- `CONFIG <w>, <layout>` (R76). -/
def asmConfig (w : Nat) (layout : Layout) : List HostOp :=
  asmWr .cfg ((if w = 128 then 1#32 else 0#32) ||| (layout.code.zeroExtend 32 <<< 1))

/-- `CREATE <w>, <seed>, <layout>` (R76). -/
def asmCreate (w : Nat) (seed : Word32) (layout : Layout) : List HostOp :=
  asmConfig w layout ++ asmWr .seed seed ++ asmInstr .init ++ asmWait

/-- The word of bytes `4j .. 4j+3`, bytes past the end of the string taken as 0 (R76). -/
def padWord (bytes : List Byte) (j : Nat) : Word32 :=
  BitVec.ofNat 32 (memRead (fun i => bytes.getD i 0#8) (4 * j) 4)

/-- `LOADBUF <a>, <bytes>` (R76). -/
def asmLoadbuf (a : Nat) (bytes : List Byte) : List HostOp :=
  (List.range ((bytes.length + 3) / 4)).flatMap (fun j => asmWrb (a + 4 * j) (padWord bytes j))

/-- `HASHUPD <off>, <len>` (R76). -/
def asmHashupd (off len : Word32) : List HostOp :=
  asmWr .offset off ++ asmWr .length len ++ asmInstr .update ++ asmWait

/-- `DIGEST` (R76). -/
def asmDigest : List HostOp :=
  asmInstr .final ++ asmWait ++ asmRd .acc0 ++ asmRd .acc1 ++ asmRd .acc2 ++ asmRd .acc3

end Sys2Proof.Machine
end

