-- ==== Sys2Proof/Machine/Step.lean ====
section
/-!
DEFINITION. One step of the machine: the engine's completion when it is due, else one operation of the outside world
(10_state.md R20, 44_commands.md R180, R181).
-/
namespace Sys2Proof.Machine

/-- One step. Which agent moves is plain data of the state (log 4). -/
def step (s : State) : Host.Outcome State Fault Refusal :=
  match s.due with
  | some w => s.complete w
  | none => s.hostStep

/-- `s` with the command word of an opcode-table row placed where the next step takes it from: `PENDING`, its
completion due at once (log 14). -/
def State.withFetchWord (s : State) (nbits w : Nat) : State := s.place (tableWord nbits w)

end Sys2Proof.Machine
end

