-- ==== Sys2Proof/Machine/Platform.lean ====
section
/-!
DEFINITION. The platform: `N_INST` instances, each with a window at its own `BLOCK_BASE` (00_scope.md R6,
10_state.md R20, R41; 20_memory.md R52; 60_exceptions.md R230). Instances share no state and move in any
interleaving.
-/
namespace Sys2Proof.Machine

/-- The instances, in the order of their addresses (log 11). -/
structure Platform where
  insts : List State
  deriving DecidableEq, Repr

/-- A platform has `N_INST` instances. -/
abbrev Platform.wf (p : Platform) : Prop := p.insts.length = Config.nInst

/-- Instance `k` right after hardware reset, with draws of its own (R190: draws are independent). -/
def instanceReset (k : Nat) : State := { State.reset with stream := k }

/-- The platform right after hardware reset. -/
def Platform.reset : Platform := { insts := (List.range Config.nInst).map instanceReset }

/-- The bytes a window spans (R52). -/
def windowSpan (bufBytes : Nat) : Nat := Config.bufBase + bufBytes

/-- Bus address `addr` lies in the window of instance `k`: offsets 0 to 0x1000 + BUF_BYTES - 1 (R52). -/
def inWindow (bufBytes k addr : Nat) : Bool :=
  Config.blockBase k ≤ addr && addr < Config.blockBase k + windowSpan bufBytes

/-- Bus address `addr` lies in the 2^21-byte slot at instance `k`'s `BLOCK_BASE`, window and unmapped offsets above
it alike (R57, log 11). -/
def inSlot (k addr : Nat) : Bool := addr / Config.baseAlign == Config.baseSlot k

/-- One step of the platform in which instance `k` moves (R41). A refusal in one instance is the refusal mark of the
whole run (R13); with no instance `k` nothing moves. -/
def Platform.stepInst (k : Nat) (p : Platform) : Host.Outcome Platform Fault Refusal :=
  match p.insts[k]? with
  | none => .next p
  | some s =>
    match step s with
    | .next t => .next { insts := p.insts.set k t }
    | .fault f => .fault f
    | .refused r => .refused r

/-- The instance in whose slot a bus address lies, and the offset from its `BLOCK_BASE` (R52, R57, R230). -/
def Platform.route (addr : Nat) (p : Platform) : Option (Nat × Nat) :=
  match (List.range p.insts.length).find? (fun k => inSlot k addr) with
  | some k => some (k, addr - Config.blockBase k)
  | none => none

/-- A host operation put in at the end of instance `k`'s queue. -/
def Platform.submit (k : Nat) (op : HostOp) (p : Platform) : Platform :=
  match p.insts[k]? with
  | none => p
  | some s => { insts := p.insts.set k { s with host := s.host ++ [op] } }

/-- A host read at a bus address, given to the instance in whose slot it lies (R41). -/
def Platform.busRead (width addr : Nat) (p : Platform) : Platform :=
  match p.route addr with
  | none => p
  | some (k, off) => p.submit k (.read width off)

/-- A host write at a bus address, given to the instance in whose slot it lies (R41). -/
def Platform.busWrite (width addr : Nat) (v : Word32) (p : Platform) : Platform :=
  match p.route addr with
  | none => p
  | some (k, off) => p.submit k (.write width off v)

end Sys2Proof.Machine
end

