-- ==== Sys2Proof/Safety.lean ====
section
/-!
DEFINITION. What counts as a legal state and a safe run, in the terms the claims use: the invariant of the machine,
the session a state stands in (10_state.md R36, 70_reset_and_hazards.md R253), and what a step leaves unchanged.
-/
namespace Sys2Proof.Machine

/-! ### The invariant -/

/-- The sticky bit of an error (R220). -/
def Status.sticky (st : Status) (c : ErrCode) : Bool :=
  match c with
  | .bounds => st.errBounds
  | .sequence => st.errSeq
  | .illegalCmd => st.errCmd
  | .notInit => st.errNoInit

/-- All four accumulator words are 0 (R40). -/
def Words4.zero : Words4 := { w0 := 0#32, w1 := 0#32, w2 := 0#32, w3 := 0#32 }

/-- What holds of every state a run reaches. -/
structure State.Inv (s : State) : Prop where
  /-- `BUF`'s list is in canonical form. -/
  memWf : s.buf.wf
  /-- Only addresses of `BUF` are listed (R35). -/
  memBound : ∀ c ∈ s.buf.cells, c.1 < s.params.bufBytes
  /-- In `H32`, `ACC[1..3]` are 0 (R37). -/
  h32Upper : s.status.variant = some .h32 → s.acc.w1 = 0#32 ∧ s.acc.w2 = 0#32 ∧ s.acc.w3 = 0#32
  /-- Before any `INIT` the session's state is as hardware reset left it (R251). -/
  unbuilt : s.status.variant = none →
    s.acc = Words4.zero ∧ s.len = 0#64 ∧ s.seedAct = 0#32 ∧ s.status.fin = false
  /-- `UNDEF` is set only in a finalized session (R190). -/
  undefFin : s.status.undef = true → s.status.fin = true
  /-- A pending command is one the host has not yet seen complete (R254). -/
  busyPoll : s.busy = true → s.unsynced = true
  /-- The most recent error's sticky bit is set (R221, R225). -/
  lastSticky : ∀ c, s.status.ecode = some c → s.status.sticky c = true
  /-- A sticky bit is set only when some error has been the most recent one since they were last cleared
  (R221, R191). -/
  stickyLast : ∀ c, s.status.sticky c = true → s.status.ecode ≠ none

/-! ### Sessions -/

/-- One `UPDATE`'s byte string absorbed into the accumulators, whatever buffer it came from (R193). -/
def absorbBytes (v : Variant) (acc : Words4) (bytes : List Byte) : Words4 :=
  absorbAcc v (fun i => bytes.getD i 0#8) acc 0 bytes.length

/-- The accumulators after construction from a seed and the accepted updates' byte strings, oldest first (R36). -/
def sessionAcc (v : Variant) (seed : Word32) (chunks : List (List Byte)) : Words4 :=
  chunks.foldl (absorbBytes v) (constructAcc v seed)

/-- The byte counter of a session (R36). -/
def sessionLen (chunks : List (List Byte)) : Word64 := BitVec.ofNat 64 (chunks.map List.length).sum

/-- The digest of a session's accepted byte strings (R193, R194). -/
def sessionDigest (v : Variant) (seed : Word32) (chunks : List (List Byte)) : List Byte :=
  (finalAcc v (sessionAcc v seed chunks) (sessionLen chunks)).bytes.take v.digestBytes

/-- `UPDATE` is accepted and absorbs: an instance is constructed, the arguments are in bounds, and the session is not
finalized (R187, R188). -/
def State.absorbs (s : State) : Bool := s.active && !s.outOfBounds && !s.status.fin

/-- The session's accepted byte strings after a command, from those before it (R36). -/
def chunksAfter (i : Instr) (s : State) (chunks : List (List Byte)) : List (List Byte) :=
  match i with
  | .init => []
  | .reset => if s.active then [] else chunks
  | .update => if s.absorbs then chunks ++ [s.updBytes] else chunks
  | .nop | .final | .clrerr => chunks

/-- The session's accepted byte strings after a step. Host operations leave them, and hardware reset ends the
session. -/
def chunksAfterStep (s : State) (chunks : List (List Byte)) : List (List Byte) :=
  match s.due with
  | some w =>
    match decode w with
    | .ok i => chunksAfter i s chunks
    | .error _ => chunks
  | none => if s.host.head? = some .hwReset then [] else chunks

/-- The two facts of R36 about a state, for the session's accepted byte strings `chunks`: they are asked of a
constructed instance whose accumulators are specified. -/
def State.Tracks (s : State) (chunks : List (List Byte)) : Prop :=
  ∀ v, s.status.variant = some v → s.status.undef = false →
    s.len = sessionLen chunks ∧
    s.acc =
      if s.status.fin then finalAcc v (sessionAcc v s.seedAct chunks) (sessionLen chunks)
      else sessionAcc v s.seedAct chunks

/-! ### Frames -/

/-- The registers the host writes hold what they held. -/
structure SameInputs (s t : State) : Prop where
  cfg : t.cfg = s.cfg
  seed : t.seed = s.seed
  offset : t.offset = s.offset
  length : t.length = s.length

/-- Everything outside the instance's registers and buffer is as it was: the pending command, the host's side, the
parameters, and the indexes of the free values other than the draws. -/
structure SameOutside (s t : State) : Prop where
  pending : t.pending = s.pending
  unsynced : t.unsynced = s.unsynced
  params : t.params = s.params
  host : t.host = s.host
  trace : t.trace = s.trace
  delay : t.delay = s.delay
  delays : t.delays = s.delays
  issued : t.issued = s.issued
  resets : t.resets = s.resets
  stream : t.stream = s.stream

/-- Every byte of `BUF` reads as before. -/
def SameBytes (s t : State) : Prop := ∀ a, t.bufByte a = s.bufByte a

/-- The error fields of `STATUS` are as they were. -/
structure SameErrors (s t : State) : Prop where
  errBounds : t.status.errBounds = s.status.errBounds
  errSeq : t.status.errSeq = s.status.errSeq
  errCmd : t.status.errCmd = s.status.errCmd
  errNoInit : t.status.errNoInit = s.status.errNoInit
  ecode : t.status.ecode = s.status.ecode

/-- The session's state is as it was: accumulators, counter, latched seed and variant, `FIN`, `UNDEF`, and the draws
made. -/
structure SameSession (s t : State) : Prop where
  acc : t.acc = s.acc
  len : t.len = s.len
  seedAct : t.seedAct = s.seedAct
  variant : t.status.variant = s.status.variant
  fin : t.status.fin = s.status.fin
  undef : t.status.undef = s.status.undef
  draws : t.draws = s.draws

/-- The outside world's next operation is a hardware reset, and no completion is due before it (R250). -/
def State.resetsNext (s : State) : Bool := s.due.isNone && (s.host.head? == some .hwReset)

/-- The command is aborted with none of its effect: `NOT_INIT` or `BOUNDS` is raised (R223). -/
def aborts (i : Instr) (s : State) : Bool :=
  match i with
  | .reset | .final => !s.active
  | .update => !s.active || s.outOfBounds
  | .nop | .init | .clrerr => false

/-- The command that this step completes, if the step completes a legal one (R181, R182). -/
def State.completing (s : State) : Option Instr :=
  match s.due with
  | some w => (decode w).toOption
  | none => none

end Sys2Proof.Machine
end

