-- ==== Sys2Proof/Certificates/Slice0/Obligations.lean ====
section
/-!
DEFINITION. The statements about the machine, for the provers. Each docstring names the rules of spec/ it formalises.
-/
open Sys2Proof Sys2Proof.Machine

/-! ### Encoding -/

/-- R71, R72: the six words of the opcode map decode to their commands, and neighbours of theirs to none. -/
def Obligations.TableWordsDecode : Prop :=
  decode 0x00000000#32 = .ok .nop ∧ decode 0x00000001#32 = .ok .init ∧ decode 0x00000002#32 = .ok .reset ∧
    decode 0x00000003#32 = .ok .update ∧ decode 0x00000004#32 = .ok .final ∧
    decode 0x00000005#32 = .ok .clrerr ∧ decode 0x00000006#32 = .error .reservedOpcode ∧
    decode 0x00000013#32 = .error .reservedBits

/-- R71: decoding and encoding agree on every word, a word selects a command exactly when `RSV = 0` and `OPC` is in
0x0..0x5, and each command's word is the one in R71's table. -/
def Obligations.DecodeEncodeAgree : Prop :=
  (encode .nop = 0x00000000#32 ∧ encode .init = 0x00000001#32 ∧ encode .reset = 0x00000002#32 ∧
    encode .update = 0x00000003#32 ∧ encode .final = 0x00000004#32 ∧ encode .clrerr = 0x00000005#32) ∧
  (∀ i w, decode w = .ok i ↔ w = encode i) ∧
    ∀ w : Word32, (∃ i, decode w = .ok i) ↔ w.extractLsb' 4 28 = 0#28 ∧ (w.extractLsb' 0 4).toNat ≤ 5

/-- R72, R182: an illegal word records `ILLEGAL_CMD` when it completes, and does nothing else. -/
def Obligations.IllegalWordRecordsError : Prop :=
  ∀ (s : State) (w : Word32), s.due = some w →
    (w.extractLsb' 4 28 ≠ 0#28 ∨ 6 ≤ (w.extractLsb' 0 4).toNat) →
    step s = .next { s with
      status := { s.status with ecode := some .illegalCmd, errCmd := true }
      pending := none
      delay := 0 }

/-! ### Issue, completion and the host -/

/-- R181, R182: when the pending word is due and decodes to a command, that command completes with a next state, and
the step is that command's own, with `BUSY` cleared and `PENDING` emptied after it. -/
def Obligations.StepRunsDecoded : Prop :=
  ∀ (s : State) (w : Word32) (i : Instr), s.due = some w → decode w = .ok i →
    ∃ t, exec i s = .next t ∧ step s = .next { t with pending := none, delay := 0 }

/-- R181: a due completion always ends with `BUSY = 0`, a raised error included. -/
def Obligations.CompletionClearsBusy : Prop :=
  ∀ (s : State) (w : Word32), s.due = some w → ∃ t, step s = .next t ∧ t.pending = none ∧ t.busy = false

/-- R181, R261: the delay is finite. While the host only reads `STATUS`, the pending command completes within
`delay + 1` steps. -/
def Obligations.CompletionIsBounded : Prop :=
  ∀ (s : State), s.busy = true → (∀ op ∈ s.host, op = .wait ∨ op = .read 32 0x010) →
    ∃ k t, k ≤ s.delay + 1 ∧ Host.Core.run core k s = .next t ∧ t.busy = false

/-- R180, R254: a `CMD` write with `BUSY = 0` (seen by the host) issues the word and does nothing else; with
`BUSY = 1` it is refused; and nothing else starts a command. -/
def Obligations.CommandIssue : Prop :=
  (∀ (s : State) (w : Word32) (rest : List HostOp), s.mustPoll = false → s.host = .write 32 0x00C w :: rest →
    ∃ t, step s = .next t ∧ t.pending = some w ∧ t.busy = true ∧ t.mustPoll = true ∧ SameInputs s t ∧
      SameSession s t ∧ SameErrors s t ∧ t.buf = s.buf ∧ SameBytes s t ∧ t.params = s.params ∧ t.host = rest) ∧
  (∀ (s : State) (w : Word32) (rest : List HostOp), s.due = none → s.busy = true →
    s.host = .write 32 0x00C w :: rest → step s = .refused (.busy 0x00C)) ∧
  (∀ (s t : State) (w : Word32), step s = .next t → s.pending = none → t.pending = some w →
    ∃ rest, s.host = .write 32 0x00C w :: rest)

/-- R254: from the `CMD` write until the host reads `STATUS` with `BUSY = 0`, a `STATUS` read is permitted, every other
access is refused, and, short of hardware reset, only that read ends the wait. -/
def Obligations.HostMustPoll : Prop :=
  (∀ (s : State) (w : Word32) (rest : List HostOp) (t : State), s.host = .write 32 0x00C w :: rest →
    s.due = none → step s = .next t → t.mustPoll = true) ∧
  (∀ (s : State) (width off : Nat) (v : Word32) (rest : List HostOp), s.due = none → s.mustPoll = true →
    (s.host = .read width off :: rest ∧ ¬(width = 32 ∧ off = 0x010) ∨ s.host = .write width off v :: rest) →
    ∃ r, step s = .refused r) ∧
  (∀ (s : State) (rest : List HostOp), s.due = none → s.host = .read 32 0x010 :: rest → ∃ t, step s = .next t) ∧
  (∀ (s t : State), s.Inv → s.resetsNext = false → step s = .next t → s.mustPoll = true → t.mustPoll = false →
    s.due = none ∧ s.busy = false ∧ ∃ rest, s.host = .wait :: rest ∨ s.host = .read 32 0x010 :: rest)

/-- R29, R181, R58: `STATUS` may be read at any time between steps; the read returns its word, whose bit 0 is `BUSY`,
and changes no register and no byte. -/
def Obligations.StatusReadAlways : Prop :=
  ∀ (s : State) (rest : List HostOp), s.due = none → s.host = .read 32 0x010 :: rest →
    ∃ t, step s = .next t ∧ t.trace = .read 0x010 s.statusWord :: s.trace ∧ s.statusWord.getLsbD 0 = s.busy ∧
      t.host = rest ∧ t.pending = s.pending ∧ SameInputs s t ∧ SameSession s t ∧ SameErrors s t ∧ t.buf = s.buf ∧
      SameBytes s t

/-- R53, R57: an access of another width, at an offset that is no multiple of 4, or at an unmapped offset is
refused. Which refusal it is where several hold is the model's own (log 16), so none is named here. -/
def Obligations.BadAccessRefused : Prop :=
  ∀ (s : State) (width off : Nat) (v : Word32) (rest : List HostOp), s.due = none →
    (s.host = .read width off :: rest ∨ s.host = .write width off v :: rest) →
    (width ≠ 32 ∨ off % 4 ≠ 0 ∨ 0x038 ≤ off ∧ off < 0x1000 ∨ 0x1000 + s.params.bufBytes ≤ off) →
    ∃ r, step s = .refused r

/-- R22: the window's map, for every legal `BUF_BYTES`: the fourteen registers at their offsets, the unmapped offsets
above them, `BUF`, and the unmapped offsets above `BUF`. -/
def Obligations.WindowMap : Prop :=
  ∀ n : Nat, bufBytesWf n = true →
    (windowTarget n 0x000 = some (.reg .id) ∧ windowTarget n 0x004 = some (.reg .cfg) ∧
      windowTarget n 0x008 = some (.reg .seed) ∧ windowTarget n 0x00C = some (.reg .cmd) ∧
      windowTarget n 0x010 = some (.reg .status) ∧ windowTarget n 0x014 = some (.reg .offset) ∧
      windowTarget n 0x018 = some (.reg .length) ∧ windowTarget n 0x01C = some (.reg .lenLo) ∧
      windowTarget n 0x020 = some (.reg .lenHi) ∧ windowTarget n 0x024 = some (.reg .seedAct) ∧
      windowTarget n 0x028 = some (.reg .acc0) ∧ windowTarget n 0x02C = some (.reg .acc1) ∧
      windowTarget n 0x030 = some (.reg .acc2) ∧ windowTarget n 0x034 = some (.reg .acc3)) ∧
    ∀ off : Nat, off % 4 = 0 →
      (0x038 ≤ off → off < 0x1000 → windowTarget n off = none) ∧
      (0x1000 ≤ off → off < 0x1000 + n → windowTarget n off = some (.buf (off - 0x1000))) ∧
      (0x1000 + n ≤ off → windowTarget n off = none)

/-- R38: a write to a read-only register is ignored: nothing changes but the host's own record. -/
def Obligations.ReadOnlyWritesIgnored : Prop :=
  ∀ (s : State) (r : Reg) (v : Word32) (rest : List HostOp), s.mustPoll = false →
    r ∈ [Reg.id, .status, .lenLo, .lenHi, .seedAct, .acc0, .acc1, .acc2, .acc3] →
    s.host = .write 32 r.addr v :: rest →
    step s = .next { s with host := rest, trace := .write r.addr v :: s.trace, delay := s.delay - 1 }

/-- R26, R27, R30, R31, R38: a write to `CFG`, `SEED`, `OFFSET` or `LENGTH` takes effect at once, a later read returns
it (`CFG` by R26's rule), and no other register and no byte changes. -/
def Obligations.ReadWriteRegisters : Prop :=
  ∀ (s : State) (r : Reg) (v : Word32) (rest : List HostOp), s.mustPoll = false →
    r ∈ [Reg.cfg, .seed, .offset, .length] → s.host = .write 32 r.addr v :: rest →
    ∃ t, step s = .next t ∧ t.host = rest ∧
      (r ≠ .cfg → t.readReg r = v) ∧ (r = .cfg → t.readReg r = (s.cfg.write v).toWord) ∧
      (∀ r', r' ≠ r → t.readReg r' = s.readReg r') ∧ t.pending = s.pending ∧ SameSession s t ∧ SameErrors s t ∧
      SameBytes s t

/-- R26, R39: what a write leaves in `CFG`: `WIDTH` takes bit 0, `LAYOUT` takes bits 2:1 unless they are 3, and the
reserved bits read 0; and which width and layout each code stands for. -/
def Obligations.CfgWriteRule : Prop :=
  ∀ (c : Cfg) (v : Word32),
    (c.write v).toWord.extractLsb' 3 29 = 0#29 ∧
    (c.write v).toWord.extractLsb' 0 1 = v.extractLsb' 0 1 ∧
    (v.extractLsb' 1 2 ≠ 3#2 → (c.write v).toWord.extractLsb' 1 2 = v.extractLsb' 1 2) ∧
    (v.extractLsb' 1 2 = 3#2 → (c.write v).toWord.extractLsb' 1 2 = c.toWord.extractLsb' 1 2) ∧
    (c.write v).width = (if v.getLsbD 0 then .w128 else .w32) ∧
    (v.extractLsb' 1 2 = 0#2 → (c.write v).layout = .auto) ∧
    (v.extractLsb' 1 2 = 1#2 → (c.write v).layout = .x86) ∧
    (v.extractLsb' 1 2 = 2#2 → (c.write v).layout = .x64) ∧
    (v.extractLsb' 1 2 = 3#2 → (c.write v).layout = c.layout)

/-- R29, R39, R74: the layout of the word `STATUS` reads, and the codes of `ECODE` and `VARIANT`. -/
def Obligations.StatusLayout : Prop :=
  (∀ s : State,
    s.statusWord.getLsbD 0 = s.pending.isSome ∧
    s.statusWord.getLsbD 1 = s.status.variant.isSome ∧
    s.statusWord.getLsbD 2 = s.status.fin ∧
    s.statusWord.getLsbD 3 = s.status.errBounds ∧
    s.statusWord.getLsbD 4 = s.status.errSeq ∧
    s.statusWord.getLsbD 5 = s.status.errCmd ∧
    s.statusWord.getLsbD 6 = s.status.errNoInit ∧
    s.statusWord.getLsbD 7 = s.status.undef ∧
    s.statusWord.extractLsb' 8 4 = errCodeNum s.status.ecode ∧
    s.statusWord.extractLsb' 12 2 = variantCode s.status.variant ∧
    s.statusWord.extractLsb' 14 18 = 0#18) ∧
  (errCodeNum none = 0#4 ∧ errCodeNum (some .bounds) = 1#4 ∧ errCodeNum (some .sequence) = 2#4 ∧
    errCodeNum (some .illegalCmd) = 3#4 ∧ errCodeNum (some .notInit) = 4#4) ∧
  (variantCode (some .h32) = 0#2 ∧ variantCode (some .x86) = 1#2 ∧ variantCode (some .x64) = 2#2 ∧
    variantCode none = 3#2)

/-- R22 to R33, R58: a host read returns the register's value and has no side effect on any register or byte; and what
each of the fourteen registers reads: `ID` its constant, `CMD` 0, `LEN_LO` and `LEN_HI` the halves of `LEN`, the others
what they hold. -/
def Obligations.HostReadsRegisters : Prop :=
  (∀ (s : State) (r : Reg) (rest : List HostOp), s.mustPoll = false → s.host = .read 32 r.addr :: rest →
    ∃ t, step s = .next t ∧ t.trace = .read r.addr (s.readReg r) :: s.trace ∧ t.host = rest ∧
      t.pending = s.pending ∧ SameInputs s t ∧ SameSession s t ∧ SameErrors s t ∧ t.buf = s.buf ∧ SameBytes s t) ∧
  (∀ s : State, s.readReg .id = 0x4D4D3301#32 ∧ s.readReg .cfg = s.cfg.toWord ∧ s.readReg .seed = s.seed ∧
    s.readReg .cmd = 0#32 ∧ s.readReg .status = s.statusWord ∧ s.readReg .offset = s.offset ∧
    s.readReg .length = s.length ∧ s.readReg .lenLo = s.len.extractLsb' 0 32 ∧
    s.readReg .lenHi = s.len.extractLsb' 32 32 ∧ s.readReg .seedAct = s.seedAct ∧ s.readReg .acc0 = s.acc.w0 ∧
    s.readReg .acc1 = s.acc.w1 ∧ s.readReg .acc2 = s.acc.w2 ∧ s.readReg .acc3 = s.acc.w3)

/-- R54: a host write of a buffer word puts `v[8i+7:8i]` in `BUF[a+i]` and changes no other byte and no register; a
host read returns the four bytes, the lowest address least significant. -/
def Obligations.BufferWords : Prop :=
  (∀ (s : State) (a : Nat) (v : Word32) (rest : List HostOp), s.mustPoll = false → a % 4 = 0 →
    a + 4 ≤ s.params.bufBytes → s.host = .write 32 (0x1000 + a) v :: rest →
    ∃ t, step s = .next t ∧ (∀ i, i < 4 → t.bufByte (a + i) = v.extractLsb' (8 * i) 8) ∧
      (∀ b, ¬(a ≤ b ∧ b < a + 4) → t.bufByte b = s.bufByte b) ∧ t.host = rest ∧ t.pending = s.pending ∧
      SameInputs s t ∧ SameSession s t ∧ SameErrors s t) ∧
  (∀ (s : State) (a : Nat) (rest : List HostOp), s.mustPoll = false → a % 4 = 0 →
    a + 4 ≤ s.params.bufBytes → s.host = .read 32 (0x1000 + a) :: rest →
    ∃ t, step s = .next t ∧ t.trace = .read (0x1000 + a)
        ((s.bufByte a).zeroExtend 32 ||| (s.bufByte (a + 1)).zeroExtend 32 <<< 8 |||
          (s.bufByte (a + 2)).zeroExtend 32 <<< 16 ||| (s.bufByte (a + 3)).zeroExtend 32 <<< 24) :: s.trace ∧
      t.host = rest ∧ t.buf = s.buf ∧ SameBytes s t ∧ SameInputs s t ∧ SameSession s t ∧ SameErrors s t)

/-- R35, R260: a byte of `BUF` changes only by a host write that names it or by hardware reset, so an unwritten byte
keeps its draw. -/
def Obligations.OnlyTheHostWritesBuf : Prop :=
  ∀ (s t : State) (a : Nat), step s = .next t → t.bufByte a ≠ s.bufByte a →
    (∃ off v rest, s.host = .write 32 off v :: rest ∧ 0x1000 ≤ off ∧ off ≤ 0x1000 + a ∧ 0x1000 + a < off + 4) ∨
      s.resetsNext = true

/-- R59, R63: while a command is pending and not yet due, nothing it reads changes, whatever the host does, short of
hardware reset. -/
def Obligations.BusyFreezesOperands : Prop :=
  ∀ s t : State, s.busy = true → s.due = none → s.resetsNext = false → step s = .next t →
    t.pending = s.pending ∧ SameInputs s t ∧ SameSession s t ∧ SameErrors s t ∧ t.buf = s.buf ∧ SameBytes s t ∧
      t.params = s.params

/-- R76: `WAIT` reads `STATUS` again while it shows `BUSY = 1`, and is done once it shows `BUSY = 0`, after which any
access is permitted. -/
def Obligations.WaitPolls : Prop :=
  ∀ (s : State) (rest : List HostOp), s.due = none → s.host = .wait :: rest →
    ∃ t, step s = .next t ∧ t.trace = .read 0x010 s.statusWord :: s.trace ∧ t.pending = s.pending ∧
      (s.busy = true → t.host = .wait :: rest) ∧ (s.busy = false → t.host = rest ∧ t.mustPoll = false)

/-- R76: `LOADBUF` leaves the string's bytes in `BUF` from its address on. -/
def Obligations.LoadbufLoads : Prop :=
  ∀ (s : State) (a : Nat) (bytes : List Byte) (rest : List HostOp), s.mustPoll = false → a % 4 = 0 →
    a + 4 * ((bytes.length + 3) / 4) ≤ s.params.bufBytes → s.host = asmLoadbuf a bytes ++ rest →
    ∃ t, Host.Core.run core ((bytes.length + 3) / 4) s = .next t ∧ t.host = rest ∧
      (∀ i, i < bytes.length → t.bufByte (a + i) = bytes.getD i 0#8) ∧ SameInputs s t ∧ SameSession s t

/-- R232: an instance with `BUSY = 0` does nothing until the outside world acts. -/
def Obligations.IdleDoesNothing : Prop :=
  ∀ s : State, s.busy = false → s.host = [] → step s = .next s

/-- R256: an access of a second host agent that the platform has not serialised is refused. -/
def Obligations.UnserialisedRefused : Prop :=
  ∀ (s : State) (rest : List HostOp), s.due = none → s.host = .unserialised :: rest →
    step s = .refused .concurrentHosts

/-! ### Reset -/

/-- R40: every register's value after hardware reset, as the host reads it; nothing is pending, and every byte of
`BUF` is a draw. How a draw of `BUF` is written, `Config.bufDraw` at an index, is the model's choice (log 3). -/
def Obligations.ResetState : Prop :=
  State.reset.readReg .id = 0x4D4D3301#32 ∧ State.reset.readReg .cfg = 0#32 ∧
    State.reset.readReg .seed = 0#32 ∧ State.reset.readReg .cmd = 0#32 ∧
    State.reset.readReg .status = 0x00003000#32 ∧ State.reset.readReg .offset = 0#32 ∧
    State.reset.readReg .length = 0#32 ∧ State.reset.readReg .lenLo = 0#32 ∧ State.reset.readReg .lenHi = 0#32 ∧
    State.reset.readReg .seedAct = 0#32 ∧ State.reset.readReg .acc0 = 0#32 ∧ State.reset.readReg .acc1 = 0#32 ∧
    State.reset.readReg .acc2 = 0#32 ∧ State.reset.readReg .acc3 = 0#32 ∧ State.reset.pending = none ∧
    ∀ a, State.reset.bufByte a = Config.bufDraw State.reset.stream State.reset.resets a

/-- R250: hardware reset, between any two steps and even during a command, gives every register its reset value,
discards the command and leaves fresh draws in `BUF`; and it is the only event that clears `ACTIVE` and sets
`VARIANT` to 3. The index of the draws, and that the parameters and the rest of the host's operations stay, are the
model's own (logs 3 and 15). -/
def Obligations.HardwareReset : Prop :=
  (∀ (s : State) (rest : List HostOp), s.due = none → s.host = .hwReset :: rest →
    ∃ t, step s = .next t ∧ (∀ r, t.readReg r = State.reset.readReg r) ∧ t.status = Status.reset ∧
      t.pending = none ∧ t.busy = false ∧ t.resets = s.resets + 1 ∧
      (∀ a, t.bufByte a = Config.bufDraw t.stream t.resets a) ∧ t.host = rest ∧ t.params = s.params) ∧
  (∀ s t : State, step s = .next t → s.active = true → t.active = false → s.resetsNext = true)

/-! ### Primitives and engines -/

/-- R100, R101: the rotations are circular: bit `i` of the result is bit `(i - n) mod width` of the word. -/
def Obligations.RotationsAreCircular : Prop :=
  (∀ (x : Word32) (n i : Nat), n < 32 → i < 32 → (rotl32 x n).getLsbD i = x.getLsbD ((i + 32 - n) % 32)) ∧
  (∀ (x : Word64) (n i : Nat), n < 64 → i < 64 → (rotl64 x n).getLsbD i = x.getLsbD ((i + 64 - n) % 64))

/-- R102, R103: the avalanche functions, their shifts and multipliers written out; they are bijections, and 0 is a
fixed point of each. -/
def Obligations.FmixBijective : Prop :=
  (∀ x : Word32, ∃ a b c d : Word32, a = x ^^^ (x >>> 16) ∧ b = a * 0x85ebca6b#32 ∧ c = b ^^^ (b >>> 13) ∧
    d = c * 0xc2b2ae35#32 ∧ fmix32 x = d ^^^ (d >>> 16)) ∧
  (∀ x : Word64, ∃ a b c d : Word64, a = x ^^^ (x >>> 33) ∧ b = a * 0xff51afd7ed558ccd#64 ∧ c = b ^^^ (b >>> 33) ∧
    d = c * 0xc4ceb9fe1a85ec53#64 ∧ fmix64 x = d ^^^ (d >>> 33)) ∧
  Function.Bijective fmix32 ∧ fmix32 0#32 = 0#32 ∧ Function.Bijective fmix64 ∧ fmix64 0#64 = 0#64

/-- R123, R125, R142, R145, R162, R165: block decode, byte by byte and word by word, at every address; and tail assembly
is the little-endian block decode of the tail padded with zero bytes. -/
def Obligations.TailIsPaddedBlock : Prop :=
  (∀ (rd : Nat → Byte) (a : Nat),
    blockWord32 rd a = ((rd a).zeroExtend 32 ||| (rd (a + 1)).zeroExtend 32 <<< 8 |||
      (rd (a + 2)).zeroExtend 32 <<< 16 ||| (rd (a + 3)).zeroExtend 32 <<< 24) ∧
    blockWords86 rd a =
      { w0 := blockWord32 rd a, w1 := blockWord32 rd (a + 4)
        w2 := blockWord32 rd (a + 8), w3 := blockWord32 rd (a + 12) } ∧
    blockWords64 rd a =
      { h1 := blockWord32 rd (a + 4) ++ blockWord32 rd a, h2 := blockWord32 rd (a + 12) ++ blockWord32 rd (a + 8) }) ∧
  ∀ (rd : Nat → Byte) (t r : Nat),
    (r ≤ 3 → tailWord32 rd t r = blockWord32 (fun a => if a < t + r then rd a else 0#8) t) ∧
    (r ≤ 15 → tailWords86 rd t r = blockWords86 (fun a => if a < t + r then rd a else 0#8) t) ∧
    (r ≤ 15 → tailWords64 rd t r = blockWords64 (fun a => if a < t + r then rd a else 0#8) t)

/-- R146, R166: a lane without tail bytes folds nothing, so the conditions on `r` are not observable. -/
def Obligations.TailFoldsEveryLane : Prop :=
  ∀ (rd : Nat → Byte) (t r : Nat), 1 ≤ r → r ≤ 15 →
    (∀ h : Words4, tail86 h (tailWords86 rd t r) r =
      { w0 := h.w0 ^^^ kmix86 .l1 (tailWords86 rd t r).w0
        w1 := h.w1 ^^^ kmix86 .l2 (tailWords86 rd t r).w1
        w2 := h.w2 ^^^ kmix86 .l3 (tailWords86 rd t r).w2
        w3 := h.w3 ^^^ kmix86 .l4 (tailWords86 rd t r).w3 }) ∧
    (∀ h : Words2, tail64 h (tailWords64 rd t r) r =
      { h1 := h.h1 ^^^ kmix64a (tailWords64 rd t r).h1
        h2 := h.h2 ^^^ kmix64b (tailWords64 rd t r).h2 })

/-- R122, R124, R126, R128, R143, R144, R148, R149, R163, R164, R168: the per-block accumulator updates, the tail fold of
`H32` (the xor term only) and the fold-downs, with the constants of R120, R140 and R160 written out: which accumulators
a line reads before and which after their own update; and the fold-down of each latched variant. -/
def Obligations.BlockAndFoldDown : Prop :=
  (∀ h k : Word32, block32 h k =
    rotl32 (h ^^^ rotl32 (k * 0xcc9e2d51#32) 15 * 0x1b873593#32) 13 * 5#32 + 0xe6546b64#32) ∧
  (∀ h k : Word32, tail32 h k = h ^^^ rotl32 (k * 0xcc9e2d51#32) 15 * 0x1b873593#32) ∧
  (∀ h k : Words4,
    (block86 h k).w0 =
      (rotl32 (h.w0 ^^^ rotl32 (k.w0 * 0x239b961b#32) 15 * 0xab0e9789#32) 19 + h.w1) * 5#32 + 0x561ccd1b#32 ∧
    (block86 h k).w1 =
      (rotl32 (h.w1 ^^^ rotl32 (k.w1 * 0xab0e9789#32) 16 * 0x38b34ae5#32) 17 + h.w2) * 5#32 + 0x0bcaa747#32 ∧
    (block86 h k).w2 =
      (rotl32 (h.w2 ^^^ rotl32 (k.w2 * 0x38b34ae5#32) 17 * 0xa1e38b93#32) 15 + h.w3) * 5#32 + 0x96cd1c35#32 ∧
    (block86 h k).w3 =
      (rotl32 (h.w3 ^^^ rotl32 (k.w3 * 0xa1e38b93#32) 18 * 0x239b961b#32) 13 + (block86 h k).w0) * 5#32 +
        0x32ac3b17#32) ∧
  (∀ h k : Words2,
    (block64 h k).h1 =
      (rotl64 (h.h1 ^^^ rotl64 (k.h1 * 0x87c37b91114253d5#64) 31 * 0x4cf5ad432745937f#64) 27 + h.h2) * 5#64 +
        0x52dce729#64 ∧
    (block64 h k).h2 =
      (rotl64 (h.h2 ^^^ rotl64 (k.h2 * 0x4cf5ad432745937f#64) 33 * 0x87c37b91114253d5#64) 31 + (block64 h k).h1) *
        5#64 + 0x38495ab5#64) ∧
  (∀ (h : Word32) (len : Word64), final32 h len = fmix32 (h ^^^ len.extractLsb' 0 32)) ∧
  (∀ (h : Words4), (cross86 h).w0 = h.w0 + h.w1 + h.w2 + h.w3 ∧ (cross86 h).w1 = h.w1 + (cross86 h).w0 ∧
    (cross86 h).w2 = h.w2 + (cross86 h).w0 ∧ (cross86 h).w3 = h.w3 + (cross86 h).w0) ∧
  (∀ (h : Words4) (len : Word64), final86 h len =
    cross86 ((cross86 (h.map (· ^^^ len.extractLsb' 0 32))).map fmix32)) ∧
  (∀ (h : Words2) (len : Word64), ∃ a b : Word64,
    a = (h.h1 ^^^ len) + (h.h2 ^^^ len) ∧ b = (h.h2 ^^^ len) + a ∧
    (final64 h len).h1 = fmix64 a + fmix64 b ∧ (final64 h len).h2 = fmix64 b + (final64 h len).h1) ∧
  (∀ (acc : Words4) (len : Word64),
    finalAcc .h32 acc len = { acc with w0 := final32 acc.w0 len } ∧
    finalAcc .x86 acc len = final86 acc len ∧
    finalAcc .x64 acc len = (final64 acc.toPair len).toWords)

/-- R25: the 64-bit views are `H1 = {ACC[1], ACC[0]}` and `H2 = {ACC[3], ACC[2]}`, and a view and its storage words
carry the same value. -/
def Obligations.PairViewRoundTrip : Prop :=
  (∀ a : Words4, a.toPair = { h1 := a.w1 ++ a.w0, h2 := a.w3 ++ a.w2 }) ∧
  (∀ p : Words2, p.toWords.toPair = p) ∧ ∀ a : Words4, a.toPair.toWords = a

/-- R56, R127, R147, R167, R193: the latched variant's engine absorbs; no bytes change nothing, each further block is
absorbed after those before it, and what is left of this call's bytes is folded as its tail after its blocks; and
absorption depends only on the bytes read, wherever in the buffer they stand. -/
def Obligations.AbsorbDependsOnBytes : Prop :=
  (∀ (rd : Nat → Byte) (acc : Words4) (a n : Nat),
    absorbAcc .h32 rd acc a n = { acc with w0 := absorb32 rd acc.w0 a n } ∧
    absorbAcc .x86 rd acc a n = absorb86 rd acc a n ∧
    absorbAcc .x64 rd acc a n = (absorb64 rd acc.toPair a n).toWords) ∧
  (∀ (rd : Nat → Byte) (h : Word32) (a n : Nat), n % 4 = 0 →
    absorb32 rd h a 0 = h ∧
    absorb32 rd h a (n + 4) = block32 (absorb32 rd h a n) (blockWord32 rd (a + n)) ∧
    ∀ r, 1 ≤ r → r ≤ 3 → absorb32 rd h a (n + r) = tail32 (absorb32 rd h a n) (tailWord32 rd (a + n) r)) ∧
  (∀ (rd : Nat → Byte) (h : Words4) (a n : Nat), n % 16 = 0 →
    absorb86 rd h a 0 = h ∧
    absorb86 rd h a (n + 16) = block86 (absorb86 rd h a n) (blockWords86 rd (a + n)) ∧
    ∀ r, 1 ≤ r → r ≤ 15 → absorb86 rd h a (n + r) = tail86 (absorb86 rd h a n) (tailWords86 rd (a + n) r) r) ∧
  (∀ (rd : Nat → Byte) (h : Words2) (a n : Nat), n % 16 = 0 →
    absorb64 rd h a 0 = h ∧
    absorb64 rd h a (n + 16) = block64 (absorb64 rd h a n) (blockWords64 rd (a + n)) ∧
    ∀ r, 1 ≤ r → r ≤ 15 → absorb64 rd h a (n + r) = tail64 (absorb64 rd h a n) (tailWords64 rd (a + n) r) r) ∧
  (∀ (v : Variant) (rd rd' : Nat → Byte) (acc : Words4) (a a' n : Nat),
    (∀ j, j < n → rd (a + j) = rd' (a' + j)) → absorbAcc v rd acc a n = absorbAcc v rd' acc a' n)

/-- R192: if every byte string but the last has a length that is a multiple of the block size, the session's digest is
that of one `UPDATE` of their concatenation; and there are byte strings, one of them of another length, for which it
is not. -/
def Obligations.Chunking : Prop :=
  (∀ (v : Variant) (seed : Word32) (chunks : List (List Byte)) (last : List Byte),
    (∀ c ∈ chunks, c.length % v.blockBytes = 0) →
    sessionDigest v seed (chunks ++ [last]) = sessionDigest v seed [(chunks ++ [last]).flatten]) ∧
  (∀ v : Variant, ∃ (seed : Word32) (first last : List Byte), first.length % v.blockBytes ≠ 0 ∧
    sessionDigest v seed [first, last] ≠ sessionDigest v seed [first ++ last])

/-- R25, R129, R150, R169, R194: the digest is defined exactly when `FIN = 1` and `UNDEF = 0`, has the variant's size,
and its byte `i` is `ACC[i div 4][8*(i mod 4)+7 : 8*(i mod 4)]`. -/
def Obligations.DigestBytes : Prop :=
  ∀ (s : State) (v : Variant), s.status.variant = some v →
    ((s.status.fin = false ∨ s.status.undef = true) → s.digest = none) ∧
    (s.status.fin = true → s.status.undef = false →
      ∃ d, s.digest = some d ∧ d.length = v.digestBytes ∧
        ∀ i, i < v.digestBytes →
          d.getD i 0#8 = ([s.acc.w0, s.acc.w1, s.acc.w2, s.acc.w3].getD (i / 4) 0#32).extractLsb' (8 * (i % 4)) 8)

/-! ### Commands -/

/-- R184: `NOP` has no effect; its completion only clears `BUSY`. -/
def Obligations.NopCommand : Prop :=
  ∀ s : State, exec .nop s = .next s ∧
    (s.due = some 0x00000000#32 → step s = .next { s with pending := none, delay := 0 })

/-- R183: the variant selected by (width, layout preference). -/
def Obligations.VariantSelection : Prop :=
  ∀ (auto : Bool) (layout : Layout),
    selectVariant auto { width := .w32, layout := layout } = .h32 ∧
    selectVariant auto { width := .w128, layout := .x86 } = .x86 ∧
    selectVariant auto { width := .w128, layout := .x64 } = .x64 ∧
    selectVariant true { width := .w128, layout := .auto } = .x64 ∧
    selectVariant false { width := .w128, layout := .auto } = .x86

/-- R121, R141, R161: the accumulators that construction leaves, variant by variant. -/
def Obligations.ConstructionState : Prop :=
  ∀ seed : Word32,
    constructAcc .h32 seed = { w0 := seed, w1 := 0#32, w2 := 0#32, w3 := 0#32 } ∧
    constructAcc .x86 seed = { w0 := seed, w1 := seed, w2 := seed, w3 := seed } ∧
    constructAcc .x64 seed = { w0 := seed, w1 := 0#32, w2 := seed, w3 := 0#32 }

/-- R185: `INIT` latches the selected variant and the seed and constructs; it is legal in every state and changes no
error field. -/
def Obligations.InitCommand : Prop :=
  ∀ s : State, exec .init s = .next { s with
    status := { s.status with
      variant := some (selectVariant s.params.autoSelectsX64 s.cfg)
      fin := false
      undef := false }
    seedAct := s.seed
    acc := constructAcc (selectVariant s.params.autoSelectsX64 s.cfg) s.seed
    len := 0#64 }

/-- R186: `RESET` restores the just-constructed state from the latched variant and seed, or raises `NOT_INIT` before
any `INIT`. -/
def Obligations.ResetCommand : Prop :=
  ∀ s : State,
    (∀ v, s.status.variant = some v → exec .reset s = .next { s with
      status := { s.status with fin := false, undef := false }
      acc := constructAcc v s.seedAct
      len := 0#64 }) ∧
    (s.status.variant = none → exec .reset s = .next { s with
      status := { s.status with ecode := some .notInit, errNoInit := true } })

/-- R187: the checks of `UPDATE`: `NOT_INIT` first, then `BOUNDS` on mathematical integers, before the sequence check;
either way nothing but the error fields changes; arguments in bounds, `o + n = BUF_BYTES` among them, are accepted. -/
def Obligations.UpdateChecks : Prop :=
  ∀ s : State,
    (s.status.variant = none → exec .update s = .next { s with
      status := { s.status with ecode := some .notInit, errNoInit := true } }) ∧
    (s.status.variant ≠ none →
      (s.offset.toInt < 0 ∨ s.length.toInt < 0 ∨ s.offset.toInt + s.length.toInt > (s.params.bufBytes : Int)) →
      exec .update s = .next { s with
        status := { s.status with ecode := some .bounds, errBounds := true } }) ∧
    (∀ o n : Nat, s.status.variant ≠ none → s.offset.toInt = (o : Int) → s.length.toInt = (n : Int) →
      o + n ≤ s.params.bufBytes →
      ∃ t, exec .update s = .next t ∧ t.status.errBounds = s.status.errBounds ∧ t.len = s.len + BitVec.ofNat 64 n)

/-- R188: an accepted `UPDATE` absorbs the `LENGTH` bytes of `BUF` from `OFFSET`, this call's tail included, and adds
`LENGTH` to `LEN`; after `FINAL` it signals `SEQUENCE`, poisons, and still adds `LENGTH`. -/
def Obligations.UpdateAbsorption : Prop :=
  ∀ (s : State) (v : Variant) (o n : Nat), s.status.variant = some v → s.offset.toInt = (o : Int) →
    s.length.toInt = (n : Int) → o + n ≤ s.params.bufBytes →
    (s.status.fin = false → exec .update s = .next { s with
      acc := absorbBytes v s.acc ((List.range n).map (fun i => s.bufByte (o + i)))
      len := s.len + BitVec.ofNat 64 n }) ∧
    (s.status.fin = true → exec .update s = .next { s with
      status := { s.status with ecode := some .sequence, errSeq := true, undef := true }
      acc := s.poisonedAcc
      draws := s.draws + s.poisonDraws
      len := s.len + BitVec.ofNat 64 n })

/-- R189: `FINAL` folds down and sets `FIN`; a second `FINAL` signals `SEQUENCE` and poisons; before any `INIT` it
raises `NOT_INIT`. -/
def Obligations.FinalCommand : Prop :=
  ∀ s : State,
    (∀ v, s.status.variant = some v → s.status.fin = false → exec .final s = .next { s with
      acc := finalAcc v s.acc s.len
      status := { s.status with fin := true } }) ∧
    (∀ v, s.status.variant = some v → s.status.fin = true → exec .final s = .next { s with
      status := { s.status with ecode := some .sequence, errSeq := true, undef := true }
      acc := s.poisonedAcc
      draws := s.draws + s.poisonDraws }) ∧
    (s.status.variant = none → exec .final s = .next { s with
      status := { s.status with ecode := some .notInit, errNoInit := true } })

/-- R190: what `poison()` writes: one draw in `H32`, whose other words stay, else four, each at the next index of the
instance's draws. `Config.draw` is a free value: this holds whatever it is. The index is the model's own (log 2). -/
def Obligations.PoisonDraws : Prop :=
  ∀ s : State,
    (s.status.variant = some .h32 → s.poison.acc = { s.acc with w0 := Config.draw s.stream s.draws } ∧
      s.poison.draws = s.draws + 1) ∧
    (s.status.variant ≠ some .h32 → s.poison.acc =
        { w0 := Config.draw s.stream s.draws, w1 := Config.draw s.stream (s.draws + 1)
          w2 := Config.draw s.stream (s.draws + 2), w3 := Config.draw s.stream (s.draws + 3) } ∧
      s.poison.draws = s.draws + 4) ∧
    s.poison.status = { s.status with undef := true }

/-- R191: `CLRERR` clears the four sticky bits and `ECODE`, and nothing else. -/
def Obligations.ClrerrCommand : Prop :=
  ∀ s : State, exec .clrerr s = .next { s with
    status := { s.status with
      errBounds := false
      errSeq := false
      errCmd := false
      errNoInit := false
      ecode := none } }

/-! ### Errors -/

/-- R222: a command reports at most one error, and the first check that applies is the one reported: an illegal word,
then `NOT_INIT`, then `BOUNDS`, then `SEQUENCE`. -/
def Obligations.ErrorPriority : Prop :=
  (∀ (i : Instr) (s t : State), i ≠ .clrerr → exec i s = .next t →
    SameErrors s t ∨ ∃ c, t.status.ecode = some c ∧
      ∀ d, t.status.sticky d = (decide (d = c) || s.status.sticky d)) ∧
  (∀ (s t : State) (w : Word32), s.due = some w → wordWf w = false → step s = .next t →
    t.status.ecode = some .illegalCmd) ∧
  (∀ (i : Instr) (s t : State), i ∈ [Instr.reset, .update, .final] → s.active = false → exec i s = .next t →
    t.status.ecode = some .notInit) ∧
  (∀ s t : State, s.active = true → s.outOfBounds = true → exec .update s = .next t →
    t.status.ecode = some .bounds) ∧
  (∀ s t : State, s.active = true → s.outOfBounds = false → s.status.fin = true → exec .update s = .next t →
    t.status.ecode = some .sequence) ∧
  (∀ s t : State, s.active = true → s.status.fin = true → exec .final s = .next t →
    t.status.ecode = some .sequence)

/-- R223: an aborted command changes nothing but the error fields. -/
def Obligations.ErrorsArePrecise : Prop :=
  ∀ (i : Instr) (s t : State), aborts i s = true → exec i s = .next t →
    SameInputs s t ∧ SameOutside s t ∧ SameSession s t ∧ t.buf = s.buf

/-- R221, R225: an error overwrites `ECODE` and sets its own sticky bit, the earlier ones stay; and nothing clears a
sticky bit or `ECODE` but `CLRERR` and hardware reset. -/
def Obligations.StickyErrors : Prop :=
  (∀ (c : ErrCode) (s : State), (s.recordError c).status.ecode = some c ∧
    ∀ d, (s.recordError c).status.sticky d = (decide (d = c) || s.status.sticky d)) ∧
  (∀ s t : State, step s = .next t →
    ((∃ c, s.status.sticky c = true ∧ t.status.sticky c = false) ∨
      (s.status.ecode ≠ none ∧ t.status.ecode = none)) →
    s.completing = some .clrerr ∨ s.resetsNext = true)

/-! ### Whole-machine rules -/

/-- R24, R29, R32, R33: only these events write the session's registers: the accumulators, `LEN`, `SEED_ACT`, `VARIANT`,
`FIN`, and `UNDEF`, which a misuse after `FINAL` sets and a new session or hardware reset clears. -/
def Obligations.SessionWriters : Prop :=
  ∀ s t : State, step s = .next t →
    (t.acc ≠ s.acc →
      s.completing ∈ [some Instr.init, some .reset, some .update, some .final] ∨ s.resetsNext = true) ∧
    (t.len ≠ s.len → s.completing ∈ [some Instr.init, some .reset, some .update] ∨ s.resetsNext = true) ∧
    (t.seedAct ≠ s.seedAct → s.completing = some .init ∨ s.resetsNext = true) ∧
    (t.status.variant ≠ s.status.variant → s.completing = some .init ∨ s.resetsNext = true) ∧
    (t.status.fin ≠ s.status.fin →
      s.completing ∈ [some Instr.init, some .reset, some .final] ∨ s.resetsNext = true) ∧
    (s.status.undef = false → t.status.undef = true →
      s.completing ∈ [some Instr.update, some .final] ∧ s.status.fin = true) ∧
    (s.status.undef = true → t.status.undef = false →
      s.completing ∈ [some Instr.init, some .reset] ∨ s.resetsNext = true)

/-- R26, R27, R257: `CFG` and `SEED` are read only by `INIT`: on every other command two states that differ only in
them have the same effect. -/
def Obligations.ConfigReadOnlyByInit : Prop :=
  ∀ (i : Instr) (s t : State) (c : Cfg) (seed : Word32), i ≠ .init → exec i s = .next t →
    exec i { s with cfg := c, seed := seed } = .next { t with cfg := c, seed := seed }

/-! ### Frames -/

/-- R24 to R35, R181: what no command changes: the registers the host writes, the buffer, the parameters and all that
stands outside the instance. -/
def Obligations.CommandFrame : Prop :=
  ∀ (i : Instr) (s t : State), exec i s = .next t →
    SameInputs s t ∧ SameOutside s t ∧ t.buf = s.buf ∧ SameBytes s t

/-- R184, R191: `NOP` and `CLRERR` change nothing of the session, and `NOP` no error field either. -/
def Obligations.NopClrerrFrame : Prop :=
  (∀ s t : State, exec .nop s = .next t → SameSession s t ∧ SameErrors s t) ∧
  (∀ s t : State, exec .clrerr s = .next t → SameSession s t)

/-- R185, R186, R225: `INIT` and `RESET` change no error field (`RESET` of an instance that is constructed) and make
no draw; `RESET` keeps the latched variant and seed. -/
def Obligations.InitResetFrame : Prop :=
  (∀ s t : State, exec .init s = .next t → SameErrors s t ∧ t.draws = s.draws) ∧
  (∀ s t : State, exec .reset s = .next t →
    t.status.variant = s.status.variant ∧ t.seedAct = s.seedAct ∧ t.draws = s.draws ∧
      (s.active = true → SameErrors s t) ∧ (s.active = false → SameSession s t))

/-- R37, R188, R189: `UPDATE` and `FINAL` keep the latched variant and seed, the upper words of `H32`, and the error
fields they do not record; `UPDATE` keeps `FIN`, and `FINAL` keeps `LEN`. -/
def Obligations.UpdateFinalFrame : Prop :=
  ∀ (i : Instr) (s t : State), i = .update ∨ i = .final → exec i s = .next t →
    t.status.variant = s.status.variant ∧ t.seedAct = s.seedAct ∧ t.status.errCmd = s.status.errCmd ∧
    (s.status.variant = some .h32 → t.acc.w1 = s.acc.w1 ∧ t.acc.w2 = s.acc.w2 ∧ t.acc.w3 = s.acc.w3) ∧
    (aborts i s = false → s.status.fin = false →
      SameErrors s t ∧ t.status.undef = s.status.undef ∧ t.draws = s.draws) ∧
    (i = .update → t.status.fin = s.status.fin) ∧
    (i = .final → t.len = s.len ∧ t.status.errBounds = s.status.errBounds)

/-! ### Invariants and sessions -/

/-- R40: the invariant holds after hardware reset. -/
def Obligations.InvAtReset : Prop := State.reset.Inv

/-- R35, R37, R190, R221, R251, R254: every step keeps the invariant: `BUF`'s list is canonical and within `BUF`, the
upper words of `H32` are 0, nothing is built before `INIT`, `UNDEF` only in a finalized session, a pending command is
one the host must poll for, and the sticky bits and `ECODE` agree. -/
def Obligations.StepKeepsInv : Prop :=
  ∀ s t : State, s.Inv → step s = .next t → t.Inv

/-- R36: at hardware reset and after every step, if an instance is constructed and `UNDEF = 0`, then `LEN` is the sum
modulo 2^64 of the lengths of the updates accepted since the last `INIT` or `RESET`, and the accumulators are what
construction, the absorption of those bytes in order and, if `FIN = 1`, the finalize rule compute from `SEED_ACT`. -/
def Obligations.SessionInvariant : Prop :=
  State.reset.Tracks [] ∧
    ∀ (s t : State) (chunks : List (List Byte)), s.Tracks chunks → step s = .next t →
      t.Tracks (chunksAfterStep s chunks)

/-- R193, R194: the digest is a function of variant, seed and accepted byte strings alone: two instances that track
the same byte strings give identical digests. -/
def Obligations.DigestIsDetermined : Prop :=
  (∀ (s : State) (v : Variant) (chunks : List (List Byte)), s.Tracks chunks → s.status.variant = some v →
    s.status.fin = true → s.status.undef = false → s.digest = some (sessionDigest v s.seedAct chunks)) ∧
  (∀ (s t : State) (chunks : List (List Byte)), s.Tracks chunks → t.Tracks chunks →
    s.status.variant = t.status.variant → s.seedAct = t.seedAct →
    s.digest ≠ none → t.digest ≠ none → s.digest = t.digest)

/-! ### The platform -/

/-- R41, R230: a step of one instance leaves every other instance as it was, and steps of two instances commute. -/
def Obligations.InstancesAreIsolated : Prop :=
  (∀ (p q : Platform) (k : Nat), p.stepInst k = .next q →
    q.insts.length = p.insts.length ∧ (∀ j, j ≠ k → q.insts[j]? = p.insts[j]?) ∧
      ∀ s, p.insts[k]? = some s → ∃ t, step s = .next t ∧ q.insts[k]? = some t) ∧
  (∀ (p q r : Platform) (j k : Nat), j ≠ k → p.stepInst j = .next q → q.stepInst k = .next r →
    ∃ q', p.stepInst k = .next q' ∧ q'.stepInst j = .next r)

/-- R52: every `BLOCK_BASE` is a multiple of 2^21, and the windows of two instances do not overlap, for every legal
`BUF_BYTES`. -/
def Obligations.WindowsDisjoint : Prop :=
  (∀ k, Config.blockBase k % 2 ^ 21 = 0) ∧
    ∀ (n j k addr : Nat), bufBytesWf n = true → inWindow n j addr = true → inWindow n k addr = true → j = k

/-- R41, R52, R57: a bus address in the slot of an instance reaches that instance, at its offset from `BLOCK_BASE`, and
no other: a bus access there is the next of that instance's operations to be appended, and leaves every other instance
as it was. -/
def Obligations.BusRouting : Prop :=
  ∀ (p : Platform) (k off : Nat) (s : State), p.insts[k]? = some s → off < 2 ^ 21 →
    p.route (Config.blockBase k + off) = some (k, off) ∧
    (∀ width, (p.busRead width (Config.blockBase k + off)).insts.length = p.insts.length ∧
      (p.busRead width (Config.blockBase k + off)).insts[k]? = some { s with host := s.host ++ [.read width off] } ∧
      ∀ j, j ≠ k → (p.busRead width (Config.blockBase k + off)).insts[j]? = p.insts[j]?) ∧
    (∀ width v, (p.busWrite width (Config.blockBase k + off) v).insts.length = p.insts.length ∧
      (p.busWrite width (Config.blockBase k + off) v).insts[k]? =
        some { s with host := s.host ++ [.write width off v] } ∧
      ∀ j, j ≠ k → (p.busWrite width (Config.blockBase k + off) v).insts[j]? = p.insts[j]?)
end

