-- ==== Sys2Proof/Laws/Engine.lean ====
section
/-!
SUPPORT. The equations of the engines' loops: what no iteration and one more iteration do. Proofs cite them and unfold
no loop.
-/
namespace Sys2Proof.Machine

@[simp] theorem memRead_zero (rd : Nat → Byte) (a : Nat) : memRead rd a 0 = 0 := rfl

theorem memRead_succ (rd : Nat → Byte) (a n : Nat) :
    memRead rd a (n + 1) = memRead rd a n + (rd (a + n)).toNat <<< (8 * n) := rfl

/-! ### `H32` -/

@[simp] theorem blocks32_zero (rd : Nat → Byte) (h : Word32) (a : Nat) : blocks32 rd h a 0 = h := rfl

theorem blocks32_succ (rd : Nat → Byte) (h : Word32) (a nb : Nat) :
    blocks32 rd h a (nb + 1) = block32 (blocks32 rd h a nb) (blockWord32 rd (a + 4 * nb)) := rfl

@[simp] theorem tailLoop32_zero (rd : Nat → Byte) (t : Nat) (k : Word32) : tailLoop32 rd t k 0 = k := rfl

theorem tailLoop32_succ (rd : Nat → Byte) (t : Nat) (k : Word32) (i : Nat) :
    tailLoop32 rd t k (i + 1) = tailLoop32 rd t (k ^^^ ((rd (t + i)).zeroExtend 32 <<< (8 * i))) i := rfl

/-! ### `X86_128` -/

@[simp] theorem blocks86_zero (rd : Nat → Byte) (h : Words4) (a : Nat) : blocks86 rd h a 0 = h := rfl

theorem blocks86_succ (rd : Nat → Byte) (h : Words4) (a nb : Nat) :
    blocks86 rd h a (nb + 1) = block86 (blocks86 rd h a nb) (blockWords86 rd (a + 16 * nb)) := rfl

@[simp] theorem tailLoop86_zero (rd : Nat → Byte) (t : Nat) (k : Words4) : tailLoop86 rd t k 0 = k := rfl

theorem tailLoop86_succ (rd : Nat → Byte) (t : Nat) (k : Words4) (i : Nat) :
    tailLoop86 rd t k (i + 1) =
      tailLoop86 rd t (k.xorAt (i / 4) ((rd (t + i)).zeroExtend 32 <<< (8 * (i % 4)))) i := rfl

/-! ### `X64_128` -/

@[simp] theorem blocks64_zero (rd : Nat → Byte) (h : Words2) (a : Nat) : blocks64 rd h a 0 = h := rfl

theorem blocks64_succ (rd : Nat → Byte) (h : Words2) (a nb : Nat) :
    blocks64 rd h a (nb + 1) = block64 (blocks64 rd h a nb) (blockWords64 rd (a + 16 * nb)) := rfl

@[simp] theorem tailLoop64_zero (rd : Nat → Byte) (t : Nat) (k : Words2) : tailLoop64 rd t k 0 = k := rfl

theorem tailLoop64_succ (rd : Nat → Byte) (t : Nat) (k : Words2) (i : Nat) :
    tailLoop64 rd t k (i + 1) =
      tailLoop64 rd t
        (if i ≥ 8 then { k with h2 := k.h2 ^^^ ((rd (t + i)).zeroExtend 64 <<< (8 * (i - 8))) }
         else { k with h1 := k.h1 ^^^ ((rd (t + i)).zeroExtend 64 <<< (8 * i)) }) i := rfl

/-! ### The accumulator file

`H32` writes `ACC[0]` only (R37). -/

theorem absorbAcc_h32 (rd : Nat → Byte) (acc : Words4) (a n : Nat) :
    absorbAcc .h32 rd acc a n = { acc with w0 := absorb32 rd acc.w0 a n } := rfl

@[simp] theorem absorbAcc_h32_w1 (rd : Nat → Byte) (acc : Words4) (a n : Nat) :
    (absorbAcc .h32 rd acc a n).w1 = acc.w1 := by rw [absorbAcc_h32]

@[simp] theorem absorbAcc_h32_w2 (rd : Nat → Byte) (acc : Words4) (a n : Nat) :
    (absorbAcc .h32 rd acc a n).w2 = acc.w2 := by rw [absorbAcc_h32]

@[simp] theorem absorbAcc_h32_w3 (rd : Nat → Byte) (acc : Words4) (a n : Nat) :
    (absorbAcc .h32 rd acc a n).w3 = acc.w3 := by rw [absorbAcc_h32]

theorem finalAcc_h32 (acc : Words4) (len : Word64) :
    finalAcc .h32 acc len = { acc with w0 := final32 acc.w0 len } := rfl

@[simp] theorem finalAcc_h32_w1 (acc : Words4) (len : Word64) : (finalAcc .h32 acc len).w1 = acc.w1 := by
  rw [finalAcc_h32]

@[simp] theorem finalAcc_h32_w2 (acc : Words4) (len : Word64) : (finalAcc .h32 acc len).w2 = acc.w2 := by
  rw [finalAcc_h32]

@[simp] theorem finalAcc_h32_w3 (acc : Words4) (len : Word64) : (finalAcc .h32 acc len).w3 = acc.w3 := by
  rw [finalAcc_h32]

/-- Construction of `H32` leaves the upper words 0 (R121). -/
theorem constructAcc_h32 (seed : Word32) :
    constructAcc .h32 seed = { w0 := seed, w1 := 0#32, w2 := 0#32, w3 := 0#32 } := rfl

end Sys2Proof.Machine
end

