-- ==== Sys2Proof/Laws/State.lean ====
section
/-!
SUPPORT. One lemma per field per update of the state, true by definition, so that no later proof unfolds a record
update; and the fields of `STATUS` that recording or clearing an error leaves.
-/
namespace Sys2Proof.Machine

variable (s : State)

/-! ### `State.recordError` -/

@[simp] theorem State.recordError_cfg (c : ErrCode) : (s.recordError c).cfg = s.cfg := rfl
@[simp] theorem State.recordError_seed (c : ErrCode) : (s.recordError c).seed = s.seed := rfl
@[simp] theorem State.recordError_status (c : ErrCode) : (s.recordError c).status = s.status.record c := rfl
@[simp] theorem State.recordError_offset (c : ErrCode) : (s.recordError c).offset = s.offset := rfl
@[simp] theorem State.recordError_length (c : ErrCode) : (s.recordError c).length = s.length := rfl
@[simp] theorem State.recordError_len (c : ErrCode) : (s.recordError c).len = s.len := rfl
@[simp] theorem State.recordError_seedAct (c : ErrCode) : (s.recordError c).seedAct = s.seedAct := rfl
@[simp] theorem State.recordError_acc (c : ErrCode) : (s.recordError c).acc = s.acc := rfl
@[simp] theorem State.recordError_pending (c : ErrCode) : (s.recordError c).pending = s.pending := rfl
@[simp] theorem State.recordError_buf (c : ErrCode) : (s.recordError c).buf = s.buf := rfl
@[simp] theorem State.recordError_unsynced (c : ErrCode) : (s.recordError c).unsynced = s.unsynced := rfl
@[simp] theorem State.recordError_params (c : ErrCode) : (s.recordError c).params = s.params := rfl
@[simp] theorem State.recordError_host (c : ErrCode) : (s.recordError c).host = s.host := rfl
@[simp] theorem State.recordError_trace (c : ErrCode) : (s.recordError c).trace = s.trace := rfl
@[simp] theorem State.recordError_delay (c : ErrCode) : (s.recordError c).delay = s.delay := rfl
@[simp] theorem State.recordError_delays (c : ErrCode) : (s.recordError c).delays = s.delays := rfl
@[simp] theorem State.recordError_issued (c : ErrCode) : (s.recordError c).issued = s.issued := rfl
@[simp] theorem State.recordError_draws (c : ErrCode) : (s.recordError c).draws = s.draws := rfl
@[simp] theorem State.recordError_resets (c : ErrCode) : (s.recordError c).resets = s.resets := rfl
@[simp] theorem State.recordError_stream (c : ErrCode) : (s.recordError c).stream = s.stream := rfl

/-! ### `State.poison` -/

@[simp] theorem State.poison_cfg : (s.poison).cfg = s.cfg := rfl
@[simp] theorem State.poison_seed : (s.poison).seed = s.seed := rfl
@[simp] theorem State.poison_status : (s.poison).status = { s.status with undef := true } := rfl
@[simp] theorem State.poison_offset : (s.poison).offset = s.offset := rfl
@[simp] theorem State.poison_length : (s.poison).length = s.length := rfl
@[simp] theorem State.poison_len : (s.poison).len = s.len := rfl
@[simp] theorem State.poison_seedAct : (s.poison).seedAct = s.seedAct := rfl
@[simp] theorem State.poison_acc : (s.poison).acc = s.poisonedAcc := rfl
@[simp] theorem State.poison_pending : (s.poison).pending = s.pending := rfl
@[simp] theorem State.poison_buf : (s.poison).buf = s.buf := rfl
@[simp] theorem State.poison_unsynced : (s.poison).unsynced = s.unsynced := rfl
@[simp] theorem State.poison_params : (s.poison).params = s.params := rfl
@[simp] theorem State.poison_host : (s.poison).host = s.host := rfl
@[simp] theorem State.poison_trace : (s.poison).trace = s.trace := rfl
@[simp] theorem State.poison_delay : (s.poison).delay = s.delay := rfl
@[simp] theorem State.poison_delays : (s.poison).delays = s.delays := rfl
@[simp] theorem State.poison_issued : (s.poison).issued = s.issued := rfl
@[simp] theorem State.poison_draws : (s.poison).draws = s.draws + s.poisonDraws := rfl
@[simp] theorem State.poison_resets : (s.poison).resets = s.resets := rfl
@[simp] theorem State.poison_stream : (s.poison).stream = s.stream := rfl

/-! ### `State.addLen` -/

@[simp] theorem State.addLen_cfg (n : Nat) : (s.addLen n).cfg = s.cfg := rfl
@[simp] theorem State.addLen_seed (n : Nat) : (s.addLen n).seed = s.seed := rfl
@[simp] theorem State.addLen_status (n : Nat) : (s.addLen n).status = s.status := rfl
@[simp] theorem State.addLen_offset (n : Nat) : (s.addLen n).offset = s.offset := rfl
@[simp] theorem State.addLen_length (n : Nat) : (s.addLen n).length = s.length := rfl
@[simp] theorem State.addLen_len (n : Nat) : (s.addLen n).len = s.len + BitVec.ofNat 64 n := rfl
@[simp] theorem State.addLen_seedAct (n : Nat) : (s.addLen n).seedAct = s.seedAct := rfl
@[simp] theorem State.addLen_acc (n : Nat) : (s.addLen n).acc = s.acc := rfl
@[simp] theorem State.addLen_pending (n : Nat) : (s.addLen n).pending = s.pending := rfl
@[simp] theorem State.addLen_buf (n : Nat) : (s.addLen n).buf = s.buf := rfl
@[simp] theorem State.addLen_unsynced (n : Nat) : (s.addLen n).unsynced = s.unsynced := rfl
@[simp] theorem State.addLen_params (n : Nat) : (s.addLen n).params = s.params := rfl
@[simp] theorem State.addLen_host (n : Nat) : (s.addLen n).host = s.host := rfl
@[simp] theorem State.addLen_trace (n : Nat) : (s.addLen n).trace = s.trace := rfl
@[simp] theorem State.addLen_delay (n : Nat) : (s.addLen n).delay = s.delay := rfl
@[simp] theorem State.addLen_delays (n : Nat) : (s.addLen n).delays = s.delays := rfl
@[simp] theorem State.addLen_issued (n : Nat) : (s.addLen n).issued = s.issued := rfl
@[simp] theorem State.addLen_draws (n : Nat) : (s.addLen n).draws = s.draws := rfl
@[simp] theorem State.addLen_resets (n : Nat) : (s.addLen n).resets = s.resets := rfl
@[simp] theorem State.addLen_stream (n : Nat) : (s.addLen n).stream = s.stream := rfl

/-! ### `State.issue` -/

@[simp] theorem State.issue_cfg (w : Word32) : (s.issue w).cfg = s.cfg := rfl
@[simp] theorem State.issue_seed (w : Word32) : (s.issue w).seed = s.seed := rfl
@[simp] theorem State.issue_status (w : Word32) : (s.issue w).status = s.status := rfl
@[simp] theorem State.issue_offset (w : Word32) : (s.issue w).offset = s.offset := rfl
@[simp] theorem State.issue_length (w : Word32) : (s.issue w).length = s.length := rfl
@[simp] theorem State.issue_len (w : Word32) : (s.issue w).len = s.len := rfl
@[simp] theorem State.issue_seedAct (w : Word32) : (s.issue w).seedAct = s.seedAct := rfl
@[simp] theorem State.issue_acc (w : Word32) : (s.issue w).acc = s.acc := rfl
@[simp] theorem State.issue_pending (w : Word32) : (s.issue w).pending = some w := rfl
@[simp] theorem State.issue_buf (w : Word32) : (s.issue w).buf = s.buf := rfl
@[simp] theorem State.issue_unsynced (w : Word32) : (s.issue w).unsynced = true := rfl
@[simp] theorem State.issue_params (w : Word32) : (s.issue w).params = s.params := rfl
@[simp] theorem State.issue_host (w : Word32) : (s.issue w).host = s.host := rfl
@[simp] theorem State.issue_trace (w : Word32) : (s.issue w).trace = s.trace := rfl
@[simp] theorem State.issue_delay (w : Word32) : (s.issue w).delay = s.nextDelay := rfl
@[simp] theorem State.issue_delays (w : Word32) : (s.issue w).delays = s.delays.tail := rfl
@[simp] theorem State.issue_issued (w : Word32) : (s.issue w).issued = s.issued + 1 := rfl
@[simp] theorem State.issue_draws (w : Word32) : (s.issue w).draws = s.draws := rfl
@[simp] theorem State.issue_resets (w : Word32) : (s.issue w).resets = s.resets := rfl
@[simp] theorem State.issue_stream (w : Word32) : (s.issue w).stream = s.stream := rfl

/-! ### `State.retire` -/

@[simp] theorem State.retire_cfg : (s.retire).cfg = s.cfg := rfl
@[simp] theorem State.retire_seed : (s.retire).seed = s.seed := rfl
@[simp] theorem State.retire_status : (s.retire).status = s.status := rfl
@[simp] theorem State.retire_offset : (s.retire).offset = s.offset := rfl
@[simp] theorem State.retire_length : (s.retire).length = s.length := rfl
@[simp] theorem State.retire_len : (s.retire).len = s.len := rfl
@[simp] theorem State.retire_seedAct : (s.retire).seedAct = s.seedAct := rfl
@[simp] theorem State.retire_acc : (s.retire).acc = s.acc := rfl
@[simp] theorem State.retire_pending : (s.retire).pending = none := rfl
@[simp] theorem State.retire_buf : (s.retire).buf = s.buf := rfl
@[simp] theorem State.retire_unsynced : (s.retire).unsynced = s.unsynced := rfl
@[simp] theorem State.retire_params : (s.retire).params = s.params := rfl
@[simp] theorem State.retire_host : (s.retire).host = s.host := rfl
@[simp] theorem State.retire_trace : (s.retire).trace = s.trace := rfl
@[simp] theorem State.retire_delay : (s.retire).delay = 0 := rfl
@[simp] theorem State.retire_delays : (s.retire).delays = s.delays := rfl
@[simp] theorem State.retire_issued : (s.retire).issued = s.issued := rfl
@[simp] theorem State.retire_draws : (s.retire).draws = s.draws := rfl
@[simp] theorem State.retire_resets : (s.retire).resets = s.resets := rfl
@[simp] theorem State.retire_stream : (s.retire).stream = s.stream := rfl

/-! ### `State.construct` -/

@[simp] theorem State.construct_cfg (v : Variant) : (s.construct v).cfg = s.cfg := rfl
@[simp] theorem State.construct_seed (v : Variant) : (s.construct v).seed = s.seed := rfl
@[simp] theorem State.construct_status (v : Variant) : (s.construct v).status = { s.status with fin := false, undef := false } := rfl
@[simp] theorem State.construct_offset (v : Variant) : (s.construct v).offset = s.offset := rfl
@[simp] theorem State.construct_length (v : Variant) : (s.construct v).length = s.length := rfl
@[simp] theorem State.construct_len (v : Variant) : (s.construct v).len = 0#64 := rfl
@[simp] theorem State.construct_seedAct (v : Variant) : (s.construct v).seedAct = s.seedAct := rfl
@[simp] theorem State.construct_acc (v : Variant) : (s.construct v).acc = constructAcc v s.seedAct := rfl
@[simp] theorem State.construct_pending (v : Variant) : (s.construct v).pending = s.pending := rfl
@[simp] theorem State.construct_buf (v : Variant) : (s.construct v).buf = s.buf := rfl
@[simp] theorem State.construct_unsynced (v : Variant) : (s.construct v).unsynced = s.unsynced := rfl
@[simp] theorem State.construct_params (v : Variant) : (s.construct v).params = s.params := rfl
@[simp] theorem State.construct_host (v : Variant) : (s.construct v).host = s.host := rfl
@[simp] theorem State.construct_trace (v : Variant) : (s.construct v).trace = s.trace := rfl
@[simp] theorem State.construct_delay (v : Variant) : (s.construct v).delay = s.delay := rfl
@[simp] theorem State.construct_delays (v : Variant) : (s.construct v).delays = s.delays := rfl
@[simp] theorem State.construct_issued (v : Variant) : (s.construct v).issued = s.issued := rfl
@[simp] theorem State.construct_draws (v : Variant) : (s.construct v).draws = s.draws := rfl
@[simp] theorem State.construct_resets (v : Variant) : (s.construct v).resets = s.resets := rfl
@[simp] theorem State.construct_stream (v : Variant) : (s.construct v).stream = s.stream := rfl

/-! ### `State.latch` -/

@[simp] theorem State.latch_cfg : (s.latch).cfg = s.cfg := rfl
@[simp] theorem State.latch_seed : (s.latch).seed = s.seed := rfl
@[simp] theorem State.latch_status : (s.latch).status = { s.status with variant := some s.selected } := rfl
@[simp] theorem State.latch_offset : (s.latch).offset = s.offset := rfl
@[simp] theorem State.latch_length : (s.latch).length = s.length := rfl
@[simp] theorem State.latch_len : (s.latch).len = s.len := rfl
@[simp] theorem State.latch_seedAct : (s.latch).seedAct = s.seed := rfl
@[simp] theorem State.latch_acc : (s.latch).acc = s.acc := rfl
@[simp] theorem State.latch_pending : (s.latch).pending = s.pending := rfl
@[simp] theorem State.latch_buf : (s.latch).buf = s.buf := rfl
@[simp] theorem State.latch_unsynced : (s.latch).unsynced = s.unsynced := rfl
@[simp] theorem State.latch_params : (s.latch).params = s.params := rfl
@[simp] theorem State.latch_host : (s.latch).host = s.host := rfl
@[simp] theorem State.latch_trace : (s.latch).trace = s.trace := rfl
@[simp] theorem State.latch_delay : (s.latch).delay = s.delay := rfl
@[simp] theorem State.latch_delays : (s.latch).delays = s.delays := rfl
@[simp] theorem State.latch_issued : (s.latch).issued = s.issued := rfl
@[simp] theorem State.latch_draws : (s.latch).draws = s.draws := rfl
@[simp] theorem State.latch_resets : (s.latch).resets = s.resets := rfl
@[simp] theorem State.latch_stream : (s.latch).stream = s.stream := rfl

/-! ### `State.absorb` -/

@[simp] theorem State.absorb_cfg (v : Variant) : (s.absorb v).cfg = s.cfg := rfl
@[simp] theorem State.absorb_seed (v : Variant) : (s.absorb v).seed = s.seed := rfl
@[simp] theorem State.absorb_status (v : Variant) : (s.absorb v).status = s.status := rfl
@[simp] theorem State.absorb_offset (v : Variant) : (s.absorb v).offset = s.offset := rfl
@[simp] theorem State.absorb_length (v : Variant) : (s.absorb v).length = s.length := rfl
@[simp] theorem State.absorb_len (v : Variant) : (s.absorb v).len = s.len := rfl
@[simp] theorem State.absorb_seedAct (v : Variant) : (s.absorb v).seedAct = s.seedAct := rfl
@[simp] theorem State.absorb_acc (v : Variant) : (s.absorb v).acc = absorbAcc v s.bufByte s.acc s.updOffset.toNat s.updLength.toNat := rfl
@[simp] theorem State.absorb_pending (v : Variant) : (s.absorb v).pending = s.pending := rfl
@[simp] theorem State.absorb_buf (v : Variant) : (s.absorb v).buf = s.buf := rfl
@[simp] theorem State.absorb_unsynced (v : Variant) : (s.absorb v).unsynced = s.unsynced := rfl
@[simp] theorem State.absorb_params (v : Variant) : (s.absorb v).params = s.params := rfl
@[simp] theorem State.absorb_host (v : Variant) : (s.absorb v).host = s.host := rfl
@[simp] theorem State.absorb_trace (v : Variant) : (s.absorb v).trace = s.trace := rfl
@[simp] theorem State.absorb_delay (v : Variant) : (s.absorb v).delay = s.delay := rfl
@[simp] theorem State.absorb_delays (v : Variant) : (s.absorb v).delays = s.delays := rfl
@[simp] theorem State.absorb_issued (v : Variant) : (s.absorb v).issued = s.issued := rfl
@[simp] theorem State.absorb_draws (v : Variant) : (s.absorb v).draws = s.draws := rfl
@[simp] theorem State.absorb_resets (v : Variant) : (s.absorb v).resets = s.resets := rfl
@[simp] theorem State.absorb_stream (v : Variant) : (s.absorb v).stream = s.stream := rfl

/-! ### `State.finalize` -/

@[simp] theorem State.finalize_cfg (v : Variant) : (s.finalize v).cfg = s.cfg := rfl
@[simp] theorem State.finalize_seed (v : Variant) : (s.finalize v).seed = s.seed := rfl
@[simp] theorem State.finalize_status (v : Variant) : (s.finalize v).status = { s.status with fin := true } := rfl
@[simp] theorem State.finalize_offset (v : Variant) : (s.finalize v).offset = s.offset := rfl
@[simp] theorem State.finalize_length (v : Variant) : (s.finalize v).length = s.length := rfl
@[simp] theorem State.finalize_len (v : Variant) : (s.finalize v).len = s.len := rfl
@[simp] theorem State.finalize_seedAct (v : Variant) : (s.finalize v).seedAct = s.seedAct := rfl
@[simp] theorem State.finalize_acc (v : Variant) : (s.finalize v).acc = finalAcc v s.acc s.len := rfl
@[simp] theorem State.finalize_pending (v : Variant) : (s.finalize v).pending = s.pending := rfl
@[simp] theorem State.finalize_buf (v : Variant) : (s.finalize v).buf = s.buf := rfl
@[simp] theorem State.finalize_unsynced (v : Variant) : (s.finalize v).unsynced = s.unsynced := rfl
@[simp] theorem State.finalize_params (v : Variant) : (s.finalize v).params = s.params := rfl
@[simp] theorem State.finalize_host (v : Variant) : (s.finalize v).host = s.host := rfl
@[simp] theorem State.finalize_trace (v : Variant) : (s.finalize v).trace = s.trace := rfl
@[simp] theorem State.finalize_delay (v : Variant) : (s.finalize v).delay = s.delay := rfl
@[simp] theorem State.finalize_delays (v : Variant) : (s.finalize v).delays = s.delays := rfl
@[simp] theorem State.finalize_issued (v : Variant) : (s.finalize v).issued = s.issued := rfl
@[simp] theorem State.finalize_draws (v : Variant) : (s.finalize v).draws = s.draws := rfl
@[simp] theorem State.finalize_resets (v : Variant) : (s.finalize v).resets = s.resets := rfl
@[simp] theorem State.finalize_stream (v : Variant) : (s.finalize v).stream = s.stream := rfl

/-! ### `State.log` -/

@[simp] theorem State.log_cfg (rec : BusRecord) : (s.log rec).cfg = s.cfg := rfl
@[simp] theorem State.log_seed (rec : BusRecord) : (s.log rec).seed = s.seed := rfl
@[simp] theorem State.log_status (rec : BusRecord) : (s.log rec).status = s.status := rfl
@[simp] theorem State.log_offset (rec : BusRecord) : (s.log rec).offset = s.offset := rfl
@[simp] theorem State.log_length (rec : BusRecord) : (s.log rec).length = s.length := rfl
@[simp] theorem State.log_len (rec : BusRecord) : (s.log rec).len = s.len := rfl
@[simp] theorem State.log_seedAct (rec : BusRecord) : (s.log rec).seedAct = s.seedAct := rfl
@[simp] theorem State.log_acc (rec : BusRecord) : (s.log rec).acc = s.acc := rfl
@[simp] theorem State.log_pending (rec : BusRecord) : (s.log rec).pending = s.pending := rfl
@[simp] theorem State.log_buf (rec : BusRecord) : (s.log rec).buf = s.buf := rfl
@[simp] theorem State.log_unsynced (rec : BusRecord) : (s.log rec).unsynced = s.unsynced := rfl
@[simp] theorem State.log_params (rec : BusRecord) : (s.log rec).params = s.params := rfl
@[simp] theorem State.log_host (rec : BusRecord) : (s.log rec).host = s.host := rfl
@[simp] theorem State.log_trace (rec : BusRecord) : (s.log rec).trace = rec :: s.trace := rfl
@[simp] theorem State.log_delay (rec : BusRecord) : (s.log rec).delay = s.delay - 1 := rfl
@[simp] theorem State.log_delays (rec : BusRecord) : (s.log rec).delays = s.delays := rfl
@[simp] theorem State.log_issued (rec : BusRecord) : (s.log rec).issued = s.issued := rfl
@[simp] theorem State.log_draws (rec : BusRecord) : (s.log rec).draws = s.draws := rfl
@[simp] theorem State.log_resets (rec : BusRecord) : (s.log rec).resets = s.resets := rfl
@[simp] theorem State.log_stream (rec : BusRecord) : (s.log rec).stream = s.stream := rfl

/-! ### `State.place` -/

@[simp] theorem State.place_cfg (w : Word32) : (s.place w).cfg = s.cfg := rfl
@[simp] theorem State.place_seed (w : Word32) : (s.place w).seed = s.seed := rfl
@[simp] theorem State.place_status (w : Word32) : (s.place w).status = s.status := rfl
@[simp] theorem State.place_offset (w : Word32) : (s.place w).offset = s.offset := rfl
@[simp] theorem State.place_length (w : Word32) : (s.place w).length = s.length := rfl
@[simp] theorem State.place_len (w : Word32) : (s.place w).len = s.len := rfl
@[simp] theorem State.place_seedAct (w : Word32) : (s.place w).seedAct = s.seedAct := rfl
@[simp] theorem State.place_acc (w : Word32) : (s.place w).acc = s.acc := rfl
@[simp] theorem State.place_pending (w : Word32) : (s.place w).pending = some w := rfl
@[simp] theorem State.place_buf (w : Word32) : (s.place w).buf = s.buf := rfl
@[simp] theorem State.place_unsynced (w : Word32) : (s.place w).unsynced = true := rfl
@[simp] theorem State.place_params (w : Word32) : (s.place w).params = s.params := rfl
@[simp] theorem State.place_host (w : Word32) : (s.place w).host = s.host := rfl
@[simp] theorem State.place_trace (w : Word32) : (s.place w).trace = s.trace := rfl
@[simp] theorem State.place_delay (w : Word32) : (s.place w).delay = 0 := rfl
@[simp] theorem State.place_delays (w : Word32) : (s.place w).delays = s.delays := rfl
@[simp] theorem State.place_issued (w : Word32) : (s.place w).issued = s.issued := rfl
@[simp] theorem State.place_draws (w : Word32) : (s.place w).draws = s.draws := rfl
@[simp] theorem State.place_resets (w : Word32) : (s.place w).resets = s.resets := rfl
@[simp] theorem State.place_stream (w : Word32) : (s.place w).stream = s.stream := rfl

/-! ### `State.observed` -/

@[simp] theorem State.observed_cfg (t : Target) : (s.observed t).cfg = s.cfg := by
  unfold State.observed; split <;> rfl
@[simp] theorem State.observed_seed (t : Target) : (s.observed t).seed = s.seed := by
  unfold State.observed; split <;> rfl
@[simp] theorem State.observed_status (t : Target) : (s.observed t).status = s.status := by
  unfold State.observed; split <;> rfl
@[simp] theorem State.observed_offset (t : Target) : (s.observed t).offset = s.offset := by
  unfold State.observed; split <;> rfl
@[simp] theorem State.observed_length (t : Target) : (s.observed t).length = s.length := by
  unfold State.observed; split <;> rfl
@[simp] theorem State.observed_len (t : Target) : (s.observed t).len = s.len := by
  unfold State.observed; split <;> rfl
@[simp] theorem State.observed_seedAct (t : Target) : (s.observed t).seedAct = s.seedAct := by
  unfold State.observed; split <;> rfl
@[simp] theorem State.observed_acc (t : Target) : (s.observed t).acc = s.acc := by
  unfold State.observed; split <;> rfl
@[simp] theorem State.observed_pending (t : Target) : (s.observed t).pending = s.pending := by
  unfold State.observed; split <;> rfl
@[simp] theorem State.observed_buf (t : Target) : (s.observed t).buf = s.buf := by
  unfold State.observed; split <;> rfl
@[simp] theorem State.observed_params (t : Target) : (s.observed t).params = s.params := by
  unfold State.observed; split <;> rfl
@[simp] theorem State.observed_host (t : Target) : (s.observed t).host = s.host := by
  unfold State.observed; split <;> rfl
@[simp] theorem State.observed_trace (t : Target) : (s.observed t).trace = s.trace := by
  unfold State.observed; split <;> rfl
@[simp] theorem State.observed_delay (t : Target) : (s.observed t).delay = s.delay := by
  unfold State.observed; split <;> rfl
@[simp] theorem State.observed_delays (t : Target) : (s.observed t).delays = s.delays := by
  unfold State.observed; split <;> rfl
@[simp] theorem State.observed_issued (t : Target) : (s.observed t).issued = s.issued := by
  unfold State.observed; split <;> rfl
@[simp] theorem State.observed_draws (t : Target) : (s.observed t).draws = s.draws := by
  unfold State.observed; split <;> rfl
@[simp] theorem State.observed_resets (t : Target) : (s.observed t).resets = s.resets := by
  unfold State.observed; split <;> rfl
@[simp] theorem State.observed_stream (t : Target) : (s.observed t).stream = s.stream := by
  unfold State.observed; split <;> rfl

@[simp] theorem State.observed_unsynced (t : Target) :
    (s.observed t).unsynced = (if t = .reg .status ∧ s.busy = false then false else s.unsynced) := by
  unfold State.observed; split <;> rfl

/-! ### `State.hardwareReset` -/

@[simp] theorem State.hardwareReset_cfg : s.hardwareReset.cfg = State.reset.cfg := rfl
@[simp] theorem State.hardwareReset_seed : s.hardwareReset.seed = State.reset.seed := rfl
@[simp] theorem State.hardwareReset_status : s.hardwareReset.status = State.reset.status := rfl
@[simp] theorem State.hardwareReset_offset : s.hardwareReset.offset = State.reset.offset := rfl
@[simp] theorem State.hardwareReset_length : s.hardwareReset.length = State.reset.length := rfl
@[simp] theorem State.hardwareReset_len : s.hardwareReset.len = State.reset.len := rfl
@[simp] theorem State.hardwareReset_seedAct : s.hardwareReset.seedAct = State.reset.seedAct := rfl
@[simp] theorem State.hardwareReset_acc : s.hardwareReset.acc = State.reset.acc := rfl
@[simp] theorem State.hardwareReset_pending : s.hardwareReset.pending = State.reset.pending := rfl
@[simp] theorem State.hardwareReset_buf : s.hardwareReset.buf = State.reset.buf := rfl
@[simp] theorem State.hardwareReset_unsynced : s.hardwareReset.unsynced = State.reset.unsynced := rfl
@[simp] theorem State.hardwareReset_params : s.hardwareReset.params = s.params := rfl
@[simp] theorem State.hardwareReset_host : s.hardwareReset.host = s.host := rfl
@[simp] theorem State.hardwareReset_trace : s.hardwareReset.trace = s.trace := rfl
@[simp] theorem State.hardwareReset_delay : s.hardwareReset.delay = State.reset.delay := rfl
@[simp] theorem State.hardwareReset_delays : s.hardwareReset.delays = s.delays := rfl
@[simp] theorem State.hardwareReset_issued : s.hardwareReset.issued = s.issued := rfl
@[simp] theorem State.hardwareReset_draws : s.hardwareReset.draws = s.draws := rfl
@[simp] theorem State.hardwareReset_resets : s.hardwareReset.resets = s.resets + 1 := rfl
@[simp] theorem State.hardwareReset_stream : s.hardwareReset.stream = s.stream := rfl

/-! ### `State.writeReg` and `State.writeTarget` -/

@[simp] theorem State.writeReg_status (r : Reg) (v : Word32) : (s.writeReg r v).status = s.status := by
  cases r <;> rfl
@[simp] theorem State.writeReg_len (r : Reg) (v : Word32) : (s.writeReg r v).len = s.len := by
  cases r <;> rfl
@[simp] theorem State.writeReg_seedAct (r : Reg) (v : Word32) : (s.writeReg r v).seedAct = s.seedAct := by
  cases r <;> rfl
@[simp] theorem State.writeReg_acc (r : Reg) (v : Word32) : (s.writeReg r v).acc = s.acc := by
  cases r <;> rfl
@[simp] theorem State.writeReg_buf (r : Reg) (v : Word32) : (s.writeReg r v).buf = s.buf := by
  cases r <;> rfl
@[simp] theorem State.writeReg_params (r : Reg) (v : Word32) : (s.writeReg r v).params = s.params := by
  cases r <;> rfl
@[simp] theorem State.writeReg_host (r : Reg) (v : Word32) : (s.writeReg r v).host = s.host := by
  cases r <;> rfl
@[simp] theorem State.writeReg_trace (r : Reg) (v : Word32) : (s.writeReg r v).trace = s.trace := by
  cases r <;> rfl
@[simp] theorem State.writeReg_draws (r : Reg) (v : Word32) : (s.writeReg r v).draws = s.draws := by
  cases r <;> rfl
@[simp] theorem State.writeReg_resets (r : Reg) (v : Word32) : (s.writeReg r v).resets = s.resets := by
  cases r <;> rfl
@[simp] theorem State.writeReg_stream (r : Reg) (v : Word32) : (s.writeReg r v).stream = s.stream := by
  cases r <;> rfl

@[simp] theorem State.writeTarget_status (t : Target) (v : Word32) : (s.writeTarget t v).status = s.status := by
  cases t with
  | reg r => exact s.writeReg_status r v
  | buf a => rfl
@[simp] theorem State.writeTarget_len (t : Target) (v : Word32) : (s.writeTarget t v).len = s.len := by
  cases t with
  | reg r => exact s.writeReg_len r v
  | buf a => rfl
@[simp] theorem State.writeTarget_seedAct (t : Target) (v : Word32) : (s.writeTarget t v).seedAct = s.seedAct := by
  cases t with
  | reg r => exact s.writeReg_seedAct r v
  | buf a => rfl
@[simp] theorem State.writeTarget_acc (t : Target) (v : Word32) : (s.writeTarget t v).acc = s.acc := by
  cases t with
  | reg r => exact s.writeReg_acc r v
  | buf a => rfl
@[simp] theorem State.writeTarget_params (t : Target) (v : Word32) : (s.writeTarget t v).params = s.params := by
  cases t with
  | reg r => exact s.writeReg_params r v
  | buf a => rfl
@[simp] theorem State.writeTarget_host (t : Target) (v : Word32) : (s.writeTarget t v).host = s.host := by
  cases t with
  | reg r => exact s.writeReg_host r v
  | buf a => rfl
@[simp] theorem State.writeTarget_trace (t : Target) (v : Word32) : (s.writeTarget t v).trace = s.trace := by
  cases t with
  | reg r => exact s.writeReg_trace r v
  | buf a => rfl
@[simp] theorem State.writeTarget_draws (t : Target) (v : Word32) : (s.writeTarget t v).draws = s.draws := by
  cases t with
  | reg r => exact s.writeReg_draws r v
  | buf a => rfl
@[simp] theorem State.writeTarget_resets (t : Target) (v : Word32) : (s.writeTarget t v).resets = s.resets := by
  cases t with
  | reg r => exact s.writeReg_resets r v
  | buf a => rfl
@[simp] theorem State.writeTarget_stream (t : Target) (v : Word32) : (s.writeTarget t v).stream = s.stream := by
  cases t with
  | reg r => exact s.writeReg_stream r v
  | buf a => rfl

/-! ### Recording and clearing errors -/

variable (st : Status) (c : ErrCode)

@[simp] theorem Status.record_fin : (st.record c).fin = st.fin := by cases c <;> rfl
@[simp] theorem Status.record_undef : (st.record c).undef = st.undef := by cases c <;> rfl
@[simp] theorem Status.record_variant : (st.record c).variant = st.variant := by cases c <;> rfl
@[simp] theorem Status.record_ecode : (st.record c).ecode = some c := by cases c <;> rfl

/-- Recording an error sets its own sticky bit and leaves the others (R221). -/
@[simp] theorem Status.record_sticky (d : ErrCode) :
    (st.record c).sticky d = (decide (d = c) || st.sticky d) := by
  cases c <;> cases d <;> rfl

@[simp] theorem Status.clearErrors_fin : st.clearErrors.fin = st.fin := rfl
@[simp] theorem Status.clearErrors_undef : st.clearErrors.undef = st.undef := rfl
@[simp] theorem Status.clearErrors_variant : st.clearErrors.variant = st.variant := rfl
@[simp] theorem Status.clearErrors_ecode : st.clearErrors.ecode = none := rfl
@[simp] theorem Status.clearErrors_sticky (d : ErrCode) : st.clearErrors.sticky d = false := by
  cases d <;> rfl

/-- The sticky bits read nothing but the four error fields. -/
@[simp] theorem Status.sticky_undef (u : Bool) : Status.sticky { st with undef := u } c = st.sticky c := by
  cases c <;> rfl
@[simp] theorem Status.sticky_fin (u : Bool) : Status.sticky { st with fin := u } c = st.sticky c := by
  cases c <;> rfl
@[simp] theorem Status.sticky_fin_undef (f u : Bool) :
    Status.sticky { st with fin := f, undef := u } c = st.sticky c := by
  cases c <;> rfl
@[simp] theorem Status.sticky_variant (v : Option Variant) :
    Status.sticky { st with variant := v } c = st.sticky c := by
  cases c <;> rfl
/-- A sticky bit is a function of the four error bits alone. -/
theorem Status.sticky_congr {st st' : Status} (hb : st.errBounds = st'.errBounds) (hq : st.errSeq = st'.errSeq)
    (hm : st.errCmd = st'.errCmd) (hn : st.errNoInit = st'.errNoInit) (c : ErrCode) :
    st.sticky c = st'.sticky c := by
  cases c <;> assumption

@[simp] theorem Status.sticky_reset : Status.reset.sticky c = false := by cases c <;> rfl

end Sys2Proof.Machine
end

