-- ==== Sys2Proof/Laws/Memory.lean ====
section
/-!
SUPPORT. Memory: every operation keeps the canonical form, a read after a write, and what equal canonical memories
are.
-/
namespace Sys2Proof.Machine

/-- What listing a byte does to every address. -/
theorem lookupCell_insertCell (a b : Nat) (v : Byte) (l : List Host.Cell) :
    lookupCell b (insertCell a v l) = if a = b then some v else lookupCell b l := by
  induction l with
  | nil => simp [insertCell, lookupCell]
  | cons c rest ih =>
    obtain ⟨c, w⟩ := c
    unfold insertCell
    by_cases h1 : a < c
    · simp only [h1, if_true]
      rw [lookupCell]
    · by_cases h2 : a = c
      · subst h2
        by_cases h3 : a = b <;> simp [lookupCell, h3]
      · simp only [h1, h2, if_false]
        by_cases h3 : c = b
        · subst h3; simp [lookupCell, h2]
        · simp [lookupCell, h3, ih]

/-- The keys after listing a byte: the new one and the old ones. -/
theorem mem_insertCell {a : Nat} {v : Byte} {l : List Host.Cell} {c : Host.Cell}
    (h : c ∈ insertCell a v l) : c = (a, v) ∨ c ∈ l := by
  induction l with
  | nil => simpa [insertCell] using h
  | cons d rest ih =>
    obtain ⟨d, w⟩ := d
    unfold insertCell at h
    split at h
    · simpa using h
    · split at h
      · simp only [List.mem_cons] at h ⊢; tauto
      · simp only [List.mem_cons] at h ⊢
        rcases h with h | h
        · exact .inr (.inl h)
        · exact (ih h).imp_right .inr

/-- Listing a byte keeps the addresses rising. -/
theorem pairwise_insertCell (a : Nat) (v : Byte) {l : List Host.Cell}
    (h : l.Pairwise (fun c d => c.1 < d.1)) : (insertCell a v l).Pairwise (fun c d => c.1 < d.1) := by
  induction l with
  | nil => simp [insertCell]
  | cons d rest ih =>
    obtain ⟨d, w⟩ := d
    obtain ⟨hd, hr⟩ := List.pairwise_cons.mp h
    unfold insertCell
    split
    · rename_i h1
      refine List.pairwise_cons.mpr ⟨?_, h⟩
      intro c hc
      rcases List.mem_cons.mp hc with rfl | hc
      · exact h1
      · exact lt_trans h1 (hd c hc)
    · split
      · rename_i h2
        subst h2
        exact List.pairwise_cons.mpr ⟨hd, hr⟩
      · rename_i h1 h2
        refine List.pairwise_cons.mpr ⟨?_, ih hr⟩
        intro c hc
        rcases mem_insertCell hc with rfl | hc
        · show d < a
          omega
        · exact hd c hc

theorem Memory.get?_set (m : Memory) (a b : Nat) (v : Byte) :
    (m.set a v).get? b = if a = b then some v else m.get? b :=
  lookupCell_insertCell a b v m.cells

theorem Memory.set_wf {m : Memory} (h : m.wf) (a : Nat) (v : Byte) : (m.set a v).wf :=
  pairwise_insertCell a v h

theorem Memory.write4_wf {m : Memory} (h : m.wf) (a : Nat) (v : Word32) : (m.write4 a v).wf :=
  Memory.set_wf (Memory.set_wf (Memory.set_wf (Memory.set_wf h _ _) _ _) _ _) _ _

/-- `MemWrite(a, 4, v)` writes byte `i` of `v` at `a + i` and leaves every other address (R9, R54). -/
theorem Memory.get?_write4 (m : Memory) (a b : Nat) (v : Word32) :
    (m.write4 a v).get? b = if a ≤ b ∧ b < a + 4 then some (byteOf v (b - a)) else m.get? b := by
  simp only [Memory.write4, Memory.get?_set]
  by_cases h3 : a + 3 = b
  · subst h3; simp
  by_cases h2 : a + 2 = b
  · subst h2; simp
  by_cases h1 : a + 1 = b
  · subst h1; simp
  by_cases h0 : a = b
  · subst h0; simp
  · have : ¬(a ≤ b ∧ b < a + 4) := by omega
    simp [h0, h1, h2, h3, this]

/-- The addresses listed after `MemWrite(a, 4, v)`. -/
theorem Memory.mem_write4 {m : Memory} {a : Nat} {v : Word32} {c : Host.Cell}
    (h : c ∈ (m.write4 a v).cells) : (a ≤ c.1 ∧ c.1 < a + 4) ∨ c ∈ m.cells := by
  simp only [Memory.write4, Memory.set] at h
  rcases mem_insertCell h with rfl | h
  · left; exact ⟨by simp, by simp⟩
  rcases mem_insertCell h with rfl | h
  · left; exact ⟨by simp, by simp⟩
  rcases mem_insertCell h with rfl | h
  · left; exact ⟨by simp, by simp⟩
  rcases mem_insertCell h with rfl | h
  · left; exact ⟨by simp, by simp⟩
  · exact .inr h

theorem State.reset_mem_wf : State.reset.buf.wf := List.Pairwise.nil

/-- A byte read depends only on `BUF` and on the indexes of its draws. -/
theorem State.bufByte_congr {s t : State} (hb : t.buf = s.buf) (hr : t.resets = s.resets)
    (hs : t.stream = s.stream) (a : Nat) : t.bufByte a = s.bufByte a := by
  simp only [State.bufByte, hb, hr, hs]

/-- A canonical list's lookup misses every address below its first. -/
theorem lookupCell_none_of_lt {a : Nat} {l : List Host.Cell} (h : ∀ c ∈ l, a < c.1) :
    lookupCell a l = none := by
  induction l with
  | nil => rfl
  | cons d rest ih =>
    obtain ⟨d, w⟩ := d
    have hd : a < d := h (d, w) (by simp)
    have : d ≠ a := by omega
    simp only [lookupCell, this, if_false]
    exact ih (fun c hc => h c (List.mem_cons_of_mem _ hc))

/-- Equal canonical memories are equal data. -/
theorem Memory.ext_of_wf {m m' : Memory} (h : m.wf) (h' : m'.wf) (hg : ∀ a, m.get? a = m'.get? a) : m = m' := by
  obtain ⟨l⟩ := m
  obtain ⟨l'⟩ := m'
  congr
  simp only [Memory.wf, Memory.get?] at h h' hg
  induction l generalizing l' with
  | nil =>
    cases l' with
    | nil => rfl
    | cons d r => simpa [lookupCell] using hg d.1
  | cons c r ih =>
    obtain ⟨a, v⟩ := c
    cases l' with
    | nil => simpa [lookupCell] using hg a
    | cons d r' =>
      obtain ⟨b, w⟩ := d
      obtain ⟨h1, h2⟩ := List.pairwise_cons.mp h
      obtain ⟨h1', h2'⟩ := List.pairwise_cons.mp h'
      have hab : a = b := by
        rcases Nat.lt_trichotomy a b with hlt | heq | hlt
        · have := hg a
          rw [lookupCell_none_of_lt (l := (b, w) :: r')] at this
          · simp [lookupCell] at this
          · intro c hc
            rcases List.mem_cons.mp hc with rfl | hc
            · exact hlt
            · exact lt_trans hlt (h1' c hc)
        · exact heq
        · have := hg b
          rw [lookupCell_none_of_lt (l := (a, v) :: r)] at this
          · simp [lookupCell] at this
          · intro c hc
            rcases List.mem_cons.mp hc with rfl | hc
            · exact hlt
            · exact lt_trans hlt (h1 c hc)
      subst hab
      have hvw : v = w := by simpa [lookupCell] using hg a
      subst hvw
      congr 1
      refine ih h2 r' h2' fun x => ?_
      by_cases hx : a = x
      · subst hx
        rw [lookupCell_none_of_lt (fun c hc => h1 c hc), lookupCell_none_of_lt (fun c hc => h1' c hc)]
      · simpa [lookupCell, hx] using hg x

end Sys2Proof.Machine
end

