-- ==== Sys2Proof/Laws/Machine.lean ====
section
/-!
SUPPORT. What a step can do, said once: the cases of a command, of a host operation and of a step, which later
proofs cite instead of unfolding them.
-/
namespace Sys2Proof.Machine

variable {i : Instr} {s t : State} {w : Word32}

/-! ### Commands -/

/-- Every command completes with a next state: the spec gives no trap (R224). -/
theorem exec_next (i : Instr) (s : State) : ∃ t, exec i s = .next t := by
  cases i with
  | nop => exact ⟨_, rfl⟩
  | init => exact ⟨_, rfl⟩
  | reset => simp only [exec, execReset]; split <;> exact ⟨_, rfl⟩
  | update =>
    simp only [exec, execUpdate]
    split
    · exact ⟨_, rfl⟩
    · split
      · exact ⟨_, rfl⟩
      · split <;> exact ⟨_, rfl⟩
  | final =>
    simp only [exec, execFinal]
    split
    · exact ⟨_, rfl⟩
    · split <;> exact ⟨_, rfl⟩
  | clrerr => exact ⟨_, rfl⟩

/-- Everything `RESET` can do (R186). -/
theorem execReset_cases (h : execReset s = .next t) :
    (s.status.variant = none ∧ t = s.recordError .notInit) ∨
      ∃ v, s.status.variant = some v ∧ t = s.construct v := by
  unfold execReset at h
  split at h <;> rename_i hv <;> cases h
  · exact .inl ⟨hv, rfl⟩
  · exact .inr ⟨_, hv, rfl⟩

/-- Everything `UPDATE` can do (R187, R188). -/
theorem execUpdate_cases (h : execUpdate s = .next t) :
    (s.status.variant = none ∧ t = s.recordError .notInit) ∨
      ∃ v, s.status.variant = some v ∧
        ((s.outOfBounds = true ∧ t = s.recordError .bounds) ∨
          (s.outOfBounds = false ∧ s.status.fin = true ∧ t = s.misuse.addLen s.updLength.toNat) ∨
          (s.outOfBounds = false ∧ s.status.fin = false ∧ t = (s.absorb v).addLen s.updLength.toNat)) := by
  unfold execUpdate at h
  split at h
  · rename_i hv; cases h; exact .inl ⟨hv, rfl⟩
  · rename_i v hv
    refine .inr ⟨v, hv, ?_⟩
    split at h
    · rename_i hb; cases h; exact .inl ⟨hb, rfl⟩
    · rename_i hb
      have hb : s.outOfBounds = false := by simpa using hb
      split at h
      · rename_i hf; cases h; exact .inr (.inl ⟨hb, hf, rfl⟩)
      · rename_i hf; cases h; exact .inr (.inr ⟨hb, by simpa using hf, rfl⟩)

/-- Everything `FINAL` can do (R189). -/
theorem execFinal_cases (h : execFinal s = .next t) :
    (s.status.variant = none ∧ t = s.recordError .notInit) ∨
      ∃ v, s.status.variant = some v ∧
        ((s.status.fin = true ∧ t = s.misuse) ∨ (s.status.fin = false ∧ t = s.finalize v)) := by
  unfold execFinal at h
  split at h
  · rename_i hv; cases h; exact .inl ⟨hv, rfl⟩
  · rename_i v hv
    refine .inr ⟨v, hv, ?_⟩
    split at h
    · rename_i hf; cases h; exact .inl ⟨hf, rfl⟩
    · rename_i hf; cases h; exact .inr ⟨by simpa using hf, rfl⟩

/-- Everything a command can do, as the effect it has had: `P` holds after every command if it holds after each
effect. -/
theorem exec_effect {P : State → Prop} (h : exec i s = .next t)
    (nop : i = .nop → P s)
    (init : i = .init → P (s.latch.construct s.selected))
    (notInit : i ∈ [Instr.reset, .update, .final] → s.status.variant = none → P (s.recordError .notInit))
    (reset : ∀ v, i = .reset → s.status.variant = some v → P (s.construct v))
    (bounds : ∀ v, i = .update → s.status.variant = some v → s.outOfBounds = true → P (s.recordError .bounds))
    (late : ∀ v, i = .update → s.status.variant = some v → s.outOfBounds = false → s.status.fin = true →
      P (s.misuse.addLen s.updLength.toNat))
    (absorb : ∀ v, i = .update → s.status.variant = some v → s.outOfBounds = false → s.status.fin = false →
      P ((s.absorb v).addLen s.updLength.toNat))
    (again : ∀ v, i = .final → s.status.variant = some v → s.status.fin = true → P s.misuse)
    (final : ∀ v, i = .final → s.status.variant = some v → s.status.fin = false → P (s.finalize v))
    (clrerr : i = .clrerr → P { s with status := s.status.clearErrors }) : P t := by
  cases i with
  | nop => cases h; exact nop rfl
  | init => cases h; exact init rfl
  | reset =>
    rcases execReset_cases h with ⟨hv, rfl⟩ | ⟨v, hv, rfl⟩
    · exact notInit (by simp) hv
    · exact reset v rfl hv
  | update =>
    rcases execUpdate_cases h with ⟨hv, rfl⟩ | ⟨v, hv, ⟨hb, rfl⟩ | ⟨hb, hf, rfl⟩ | ⟨hb, hf, rfl⟩⟩
    · exact notInit (by simp) hv
    · exact bounds v rfl hv hb
    · exact late v rfl hv hb hf
    · exact absorb v rfl hv hb hf
  | final =>
    rcases execFinal_cases h with ⟨hv, rfl⟩ | ⟨v, hv, ⟨hf, rfl⟩ | ⟨hf, rfl⟩⟩
    · exact notInit (by simp) hv
    · exact again v rfl hv hf
    · exact final v rfl hv hf
  | clrerr => cases h; exact clrerr rfl

/-! ### The window -/

/-- The offset of a register is mapped to it (R22). -/
@[simp] theorem regAt_addr (r : Reg) : regAt r.addr = some r := by cases r <;> decide

@[simp] theorem windowTarget_reg (n : Nat) (r : Reg) : windowTarget n r.addr = some (.reg r) := by
  simp [windowTarget]

/-- A register is mapped at its own offset only. -/
theorem addr_of_regAt {off : Nat} {r : Reg} (h : regAt off = some r) : off = r.addr := by
  have := List.find?_some h
  simpa using (beq_iff_eq.mp this).symm

/-- No register lies at or above the buffer window (R22). -/
theorem regAt_of_le {off : Nat} (h : 0x38 ≤ off) : regAt off = none := by
  simp only [regAt, List.find?_eq_none]
  intro r _
  cases r <;> simp [Reg.addr] <;> omega

/-- Above the registers the window holds the words of `BUF` and nothing else (R22, R57). -/
theorem windowTarget_of_le {n off : Nat} (h : 0x38 ≤ off) :
    windowTarget n off =
      if 0x1000 ≤ off ∧ off - 0x1000 + 4 ≤ n then some (.buf (off - 0x1000)) else none := by
  unfold windowTarget
  rw [regAt_of_le h]
  rfl

/-- What a mapped buffer offset reaches lies in `BUF` (R54). -/
theorem windowTarget_buf {n off a : Nat} (h : windowTarget n off = some (.buf a)) :
    off = 0x1000 + a ∧ a + 4 ≤ n := by
  unfold windowTarget at h
  split at h
  · simp at h
  · split at h
    · rename_i hb
      simp only [Option.some.injEq, Target.buf.injEq] at h
      simp only [Config.bufBase] at hb h
      omega
    · simp at h

/-- What a mapped register offset reaches. -/
theorem windowTarget_reg_addr {n off : Nat} {r : Reg} (h : windowTarget n off = some (.reg r)) :
    off = r.addr := by
  unfold windowTarget at h
  split at h
  · rename_i r' hr
    simp only [Option.some.injEq, Target.reg.injEq] at h
    subst h
    exact addr_of_regAt hr
  · split at h <;> simp at h

/-- When an access is not refused (R53, R57, R254). -/
theorem access_ok {poll : Target → Bool} {width off : Nat} {tgt : Target}
    (h : s.access poll width off = .ok tgt) :
    width = 32 ∧ off % 4 = 0 ∧ windowTarget s.params.bufBytes off = some tgt ∧
      (s.mustPoll = false ∨ poll tgt = true) := by
  unfold State.access at h
  split at h
  · cases h
  · split at h
    · cases h
    · split at h
      · cases h
      · rename_i h1 h2 _ ht
        split at h
        · cases h
        · rename_i hp
          cases h
          refine ⟨by omega, by omega, ht, ?_⟩
          cases hm : s.mustPoll
          · exact .inl rfl
          · simp only [hm, Bool.true_and] at hp
            exact .inr (by simpa using hp)

/-- A host write that is permitted (R38, R54, R254). -/
theorem step_write {off : Nat} {v : Word32} {rest : List HostOp} {tgt : Target} (hm : s.mustPoll = false)
    (ho : off % 4 = 0) (ht : windowTarget s.params.bufBytes off = some tgt)
    (hh : s.host = .write 32 off v :: rest) :
    step s = .next ((({ s with host := rest } : State).log (.write off v)).writeTarget tgt v) := by
  have hd : s.due = none := by
    have : s.pending = none := by simp [State.mustPoll, State.busy] at hm; exact hm.1
    unfold State.due; split <;> simp [this]
  have hmm : ({ s with host := rest } : State).mustPoll = false := hm
  simp [step, hd, State.hostStep, hh, State.perform, State.hostWrite, State.writeAccess, State.access, hmm, ht, ho]

/-- A host read that is permitted (R38, R54, R254). -/
theorem step_read {off : Nat} {rest : List HostOp} {tgt : Target} (hm : s.mustPoll = false)
    (ho : off % 4 = 0) (ht : windowTarget s.params.bufBytes off = some tgt)
    (hh : s.host = .read 32 off :: rest) :
    step s = .next ((({ s with host := rest } : State).log (.read off (s.readTarget tgt))).observed tgt) := by
  have hd : s.due = none := by
    have : s.pending = none := by simp [State.mustPoll, State.busy] at hm; exact hm.1
    unfold State.due; split <;> simp [this]
  have hmm : ({ s with host := rest } : State).mustPoll = false := hm
  simp [step, hd, State.hostStep, hh, State.perform, State.hostRead, State.readAccess, State.access, hmm, ht, ho]
  cases tgt <;> [(rename_i r; cases r <;> rfl); rfl]

/-! ### Host operations -/

/-- Everything one operation of the outside world can do when it is not refused. -/
theorem hostStep_cases (h : s.hostStep = .next t) :
    (s.host = [] ∧ t = s) ∨
    (∃ width off rest tgt, s.host = .read width off :: rest ∧ s.readAccess width off = .ok tgt ∧
      t = (({ s with host := rest } : State).log (.read off (s.readTarget tgt))).observed tgt) ∨
    (∃ width off v rest tgt, s.host = .write width off v :: rest ∧ s.writeAccess width off = .ok tgt ∧
      t = (({ s with host := rest } : State).log (.write off v)).writeTarget tgt v) ∨
    (∃ rest, s.host = .wait :: rest ∧ s.busy = true ∧ t = s.poll) ∨
    (∃ rest, s.host = .wait :: rest ∧ s.busy = false ∧ t = ({ s with host := rest } : State).poll) ∨
    (∃ rest, s.host = .hwReset :: rest ∧ t = ({ s with host := rest } : State).hardwareReset) := by
  unfold State.hostStep at h
  split at h
  · rename_i hh; cases h; exact .inl ⟨hh, rfl⟩
  · rename_i op rest hh
    refine .inr ?_
    cases op with
    | read width off =>
      simp only [State.perform, State.hostRead] at h
      split at h
      · cases h
      · rename_i tgt ha
        cases h
        exact .inl ⟨width, off, rest, tgt, hh, ha, by cases tgt <;> [(rename_i r; cases r <;> rfl); rfl]⟩
    | write width off v =>
      simp only [State.perform, State.hostWrite] at h
      split at h
      · cases h
      · rename_i tgt ha
        cases h
        exact .inr (.inl ⟨width, off, v, rest, tgt, hh, ha, rfl⟩)
    | wait =>
      simp only [State.perform] at h
      cases hb : s.busy
      · rw [hb] at h
        simp only [Bool.false_eq_true, if_false] at h
        cases h
        exact .inr (.inr (.inr (.inl ⟨rest, hh, rfl, rfl⟩)))
      · rw [hb] at h
        simp only [if_true] at h
        cases h
        exact .inr (.inr (.inl ⟨rest, hh, rfl, rfl⟩))
    | hwReset =>
      cases h
      exact .inr (.inr (.inr (.inr ⟨rest, hh, rfl⟩)))
    | unserialised => cases h

/-! ### Steps -/

/-- A due command is a pending one (R181). -/
theorem pending_of_due (h : s.due = some w) : s.pending = some w := by
  unfold State.due at h
  split at h
  · exact h
  · cases h

theorem busy_of_due (h : s.due = some w) : s.busy = true := by
  simp [State.busy, pending_of_due h]

/-- Everything a step can do when it is neither a fault nor refused. -/
theorem step_cases (h : step s = .next t) :
    (∃ w i u, s.due = some w ∧ decode w = .ok i ∧ exec i s = .next u ∧ t = u.retire) ∨
    (∃ w e, s.due = some w ∧ decode w = .error e ∧ t = (s.recordError .illegalCmd).retire) ∨
    (s.due = none ∧ s.hostStep = .next t) := by
  unfold step at h
  split at h
  · rename_i w hd
    unfold State.complete at h
    split at h
    · rename_i i hi
      obtain ⟨u, hu⟩ := exec_next i s
      rw [hu] at h
      cases h
      exact .inl ⟨w, i, u, hd, hi, hu, rfl⟩
    · rename_i e he
      cases h
      exact .inr (.inl ⟨w, e, hd, he, rfl⟩)
  · rename_i hd
    exact .inr (.inr ⟨hd, h⟩)

/-- With nothing pending no completion is due (R181). -/
theorem due_none_of_pending (h : s.pending = none) : s.due = none := by
  unfold State.due; split <;> simp [h]

/-- Where no completion is due, the outside world moves. -/
theorem step_of_due_none (h : s.due = none) : step s = s.hostStep := by simp [step, h]

/-- When the host need not poll, nothing is pending (R254). -/
theorem mustPoll_eq_false : s.mustPoll = false ↔ s.pending = none ∧ s.unsynced = false := by
  simp [State.mustPoll, State.busy, Bool.or_eq_false_iff]

/-- A state is one in which the same bytes are read if its buffer and the indexes of its draws are the same. -/
theorem sameBytes_of_buf (hb : t.buf = s.buf) (hr : t.resets = s.resets) (hs : t.stream = s.stream) :
    SameBytes s t := fun a => State.bufByte_congr hb hr hs a

/-- A run's first step, on any machine. -/
theorem run_succ_of_next (M : Host.Core) {n : Nat} {x y : M.State} (h : M.step x = .next y) :
    M.run (n + 1) x = M.run n y := by simp [Host.Core.run, h]

/-- A run's first step on this machine. -/
theorem run_succ_of_step {n : Nat} (h : step s = .next t) :
    Host.Core.run core (n + 1) s = Host.Core.run core n t := run_succ_of_next core h

/-! ### Reading the buffer -/

/-- `MemRead(a, n)` depends only on the `n` bytes from `a` (R9), wherever they stand (R56). -/
theorem memRead_congr {rd rd' : Nat → Byte} {a a' : Nat} (n : Nat)
    (h : ∀ j, j < n → rd (a + j) = rd' (a' + j)) : memRead rd a n = memRead rd' a' n := by
  induction n with
  | zero => rfl
  | succ n ih =>
    simp only [memRead]
    rw [ih (fun j hj => h j (by omega)), h n (by omega)]

/-- `MemRead(a, n)` fits in `8 * n` bits (R9). -/
theorem memRead_lt (rd : Nat → Byte) (a n : Nat) : memRead rd a n < 2 ^ (8 * n) := by
  induction n with
  | zero => simp [memRead]
  | succ n ih =>
    have hb : (rd (a + n)).toNat < 2 ^ 8 := (rd (a + n)).isLt
    have hp : 2 ^ (8 * (n + 1)) = 2 ^ 8 * 2 ^ (8 * n) := by rw [← pow_add]; congr 1; omega
    simp only [memRead, Nat.shiftLeft_eq]
    rw [hp]
    nlinarith [Nat.two_pow_pos (8 * n)]

end Sys2Proof.Machine
end

