-- ==== Sys2Proof/Laws/PerInstr.lean ====
section
/-!
SUPPORT. Statements about every command as syntax, one lemma per constructor. Family `WordLegal`: the word of a
command is a legal encoding, its reserved field 0 and its operation code at most 5 (30_encoding.md R70, R71).
-/
namespace Sys2Proof.Laws.WordLegal

/-- The command's word is well formed. -/
def Statement (i : Instr) : Prop := wordWf (encode i) = true

theorem nop : Statement .nop := rfl
theorem init : Statement .init := rfl
theorem reset : Statement .reset := rfl
theorem update : Statement .update := rfl
theorem final : Statement .final := rfl
theorem clrerr : Statement .clrerr := rfl

end Sys2Proof.Laws.WordLegal
end

