-- ==== Sys2Proof/Laws/Words.lean ====
section
/-!
SUPPORT. Bytes and words: the byte of a word is what `MemRead` put there (R9, R54), and the bits of the fields of a
register word (R7).
-/
namespace Sys2Proof.Machine

theorem byte_lt (b : Byte) : b.toNat < 256 := b.isLt

/-- Byte `i` of a word as a number. -/
theorem byteOf_toNat (w : Word32) (i : Nat) : (byteOf w i).toNat = w.toNat / 2 ^ (8 * i) % 256 := by
  simp [byteOf, BitVec.extractLsb'_toNat, Nat.shiftRight_eq_div_pow]

/-- `MemRead(a, 4)` as a sum of four bytes (R9). -/
theorem memRead_four (rd : Nat → Byte) (a : Nat) :
    memRead rd a 4 =
      (rd a).toNat + (rd (a + 1)).toNat * 256 + (rd (a + 2)).toNat * 65536 + (rd (a + 3)).toNat * 16777216 := by
  simp [memRead, Nat.shiftLeft_eq]

/-- The four bytes of a little-endian sum. -/
theorem bytes_of_sum {a b c d : Nat} (ha : a < 256) (hb : b < 256) (hc : c < 256) (hd : d < 256) :
    (a + b * 256 + c * 65536 + d * 16777216) % 4294967296 / 1 % 256 = a ∧
      (a + b * 256 + c * 65536 + d * 16777216) % 4294967296 / 256 % 256 = b ∧
      (a + b * 256 + c * 65536 + d * 16777216) % 4294967296 / 65536 % 256 = c ∧
      (a + b * 256 + c * 65536 + d * 16777216) % 4294967296 / 16777216 % 256 = d := by
  refine ⟨?_, ?_, ?_, ?_⟩ <;> omega

/-- Byte `i` of the little-endian word read at `a` is the byte at `a + i` (R9, R54). -/
theorem byteOf_memRead (rd : Nat → Byte) (a i : Nat) (hi : i < 4) :
    byteOf (BitVec.ofNat 32 (memRead rd a 4)) i = rd (a + i) := by
  obtain ⟨k0, k1, k2, k3⟩ :=
    bytes_of_sum (byte_lt (rd a)) (byte_lt (rd (a + 1))) (byte_lt (rd (a + 2))) (byte_lt (rd (a + 3)))
  apply BitVec.eq_of_toNat_eq
  rw [byteOf_toNat, BitVec.toNat_ofNat, memRead_four, show (2 : Nat) ^ 32 = 4294967296 by norm_num]
  obtain rfl | rfl | rfl | rfl : i = 0 ∨ i = 1 ∨ i = 2 ∨ i = 3 := by omega
  · rw [show (2 : Nat) ^ (8 * 0) = 1 by norm_num]; exact k0
  · rw [show (2 : Nat) ^ (8 * 1) = 256 by norm_num]; exact k1
  · rw [show (2 : Nat) ^ (8 * 2) = 65536 by norm_num]; exact k2
  · rw [show (2 : Nat) ^ (8 * 3) = 16777216 by norm_num]; exact k3

/-- The bits of a one-bit field of a register word. -/
theorem getLsbD_field_bit (b : Bool) (lo i : Nat) (hi : i < 32) :
    (field lo (bit b)).getLsbD i = (decide (i = lo) && b) := by
  by_cases h : i = lo
  · subst h; simp [field, bit, hi]
  · have : i < lo ∨ i - lo ≠ 0 := by omega
    rcases this with h' | h'
    · simp [field, h, h']
    · simp [field, bit, h, BitVec.getLsbD_ofBool, h']

/-- The bits of any field of a register word. -/
theorem getLsbD_field {n : Nat} (v : BitVec n) (lo i : Nat) (hi : i < 32) :
    (field lo v).getLsbD i = (decide (lo ≤ i) && v.getLsbD (i - lo)) := by
  by_cases h : i < lo
  · simp [field, h]
  · simp [field, hi, h, show lo ≤ i by omega]

end Sys2Proof.Machine
end

