-- ==== Sys2Proof/Tests/Slice0.lean ====
section
/-!
SUPPORT. Tests of the model on fixed values, each with its source in spec/, the smoke tests of the well-formedness
checks among them; and, for every statement with hypotheses, a witness that meets them.
-/
namespace Sys2Proof.Tests
open Sys2Proof.Machine

/-! ### Small states -/

/-- The reset state of a platform whose open parameters have the values that spec/95_test_vectors.md takes. -/
def base : State := { State.reset with params := { bufBytes := 4096, autoSelectsX64 := false } }

/-- The state a step leaves. -/
def after (s : State) : State :=
  match step s with
  | .next t => t
  | .fault f => nomatch f
  | .refused _ => s

/-- Command `i` placed in `PENDING` and completed. -/
def run (i : Instr) (s : State) : State := after (s.place (encode i))

/-- `BUF` with the given bytes at addresses 0, 1, 2, ... -/
def bufOf (bytes : List Byte) : Memory := { cells := bytes.zipIdx.map (fun p => (p.2, p.1)) }

/-- The bytes of "abc". -/
def abc : List Byte := [0x61#8, 0x62#8, 0x63#8]

/-- The bytes 0, 1, 2, ... -/
def counting (n : Nat) : List Byte := (List.range n).map (BitVec.ofNat 8)

/-- "abc" in `BUF`, `OFFSET` 0 and `LENGTH` 3, no instance constructed yet. -/
def loaded : State := { base with buf := bufOf abc, length := 3#32 }

/-- The same with an `H32` instance of seed 0 (the reset values of `CFG` and `SEED`). -/
def built : State := run .init loaded

/-- The same after `UPDATE`. -/
def updated : State := run .update built

/-- The same after `FINAL`. -/
def finished : State := run .final updated

/-- `built` with the host still to perform `ops`. -/
def hosted (ops : List HostOp) : State := { built with host := ops, unsynced := false }

/-- `built` with an `UPDATE` pending, `d` host operations still to go by, and the host still to perform `ops`. -/
def pendingState (d : Nat) (ops : List HostOp) : State := { built.place 3#32 with delay := d, host := ops }

/-! ### Well-formedness and decoding -/

/-- R70: `RSV` must be 0. -/
theorem test_wf_rsv : wordWf 0x00000013#32 = false ∧ wordWf 0x80000001#32 = false := by decide

/-- R72: `OPC` in 0x6..0xF is reserved. -/
theorem test_wf_opc : wordWf 0x00000006#32 = false ∧ wordWf 0x0000000F#32 = false ∧ wordWf 0x00000005#32 = true := by
  decide

/-- R6: `BUF_BYTES` is a multiple of 4 from 16 to 2^20. -/
theorem test_wf_bufBytes : bufBytesWf 18 = false ∧ bufBytesWf 12 = false ∧ bufBytesWf 0x100004 = false ∧
    bufBytesWf 16 = true ∧ bufBytesWf 0x100000 = true := by decide

/-- R70, R71: the words, bit by bit: 28 bits of `RSV`, then 4 of `OPC`. -/
theorem test_decode_words :
    decode 0b00000000000000000000000000000000#32 = .ok .nop ∧
    decode 0b00000000000000000000000000000001#32 = .ok .init ∧
    decode 0b00000000000000000000000000000010#32 = .ok .reset ∧
    decode 0b00000000000000000000000000000011#32 = .ok .update ∧
    decode 0b00000000000000000000000000000100#32 = .ok .final ∧
    decode 0b00000000000000000000000000000101#32 = .ok .clrerr := ⟨rfl, rfl, rfl, rfl, rfl, rfl⟩

/-- R72: a word with `RSV` or `OPC` out of range is rejected by name. -/
theorem test_decode_illegal :
    decode 0b00000000000000000000000000010001#32 = .error .reservedBits ∧
    decode 0b10000000000000000000000000000001#32 = .error .reservedBits ∧
    decode 0b00000000000000000000000000000110#32 = .error .reservedOpcode ∧
    decode 0b00000000000000000000000000001111#32 = .error .reservedOpcode := ⟨rfl, rfl, rfl, rfl⟩

/-- The table's numbering of a row's bits. -/
theorem test_decodeTableWord : decodeTableWord 32 3 = some .update ∧ decodeTableWord 32 0x13 = none ∧
    decodeTableWord 8 4 = some .final := by decide

/-- A command placed by `withFetchWord` runs at the next step: `RESET` before any `INIT` raises `NOT_INIT` (R186). -/
theorem test_withFetchWord : (after (State.reset.withFetchWord 32 2)).statusWord = 0x00003440#32 := by decide

/-! ### Primitives (40_primitives.md and 95_test_vectors.md section 2.1) -/

/-- Corners of the rotations. -/
theorem test_rotl : rotl32 0x12345678#32 0 = 0x12345678#32 ∧ rotl32 0x12345678#32 31 = 0x091A2B3C#32 ∧
    rotl32 0xDEADBEEF#32 13 = 0xB7DDFBD5#32 ∧ rotl64 0x0123456789ABCDEF#64 33 = 0x13579BDE02468ACF#64 ∧
    rotl64 0x0123456789ABCDEF#64 63 = 0x8091A2B3C4D5E6F7#64 := by decide

/-- The avalanche functions. -/
theorem test_fmix : fmix32 0xDEADBEEF#32 = 0x0DE5C6A9#32 ∧ fmix32 0xFFFFFFFF#32 = 0x81F16F39#32 ∧
    fmix64 0x00000000DEADBEEF#64 = 0xD24BD59F862A1DAC#64 ∧ fmix64 0x8000000000000000#64 = 0x8F780810AF31A493#64 := by
  decide

/-! ### Engines (worked examples of 41, 42 and 43) -/

/-- R122, R124. -/
theorem test_block32 : kmix32 0x00636261#32 = 0xA7349DB7#32 ∧ block32 0#32 1#32 = 0x26CF0576#32 ∧
    block32 0xFFFFFFFF#32 0xFFFFFFFF#32 = 0xB849F5EE#32 := by decide

/-- R143: each lane's multipliers. -/
theorem test_kmix86 : kmix86 .l1 1#32 = 0x9378F1B5#32 ∧ kmix86 .l2 1#32 = 0x04620F86#32 ∧
    kmix86 .l3 1#32 = 0xA2437F92#32 ∧ kmix86 .l4 1#32 = 0x62AF7FFA#32 := by decide

/-- R144: seed 0 with bytes 00..0F, lane 4 reading the new `H1`. -/
theorem test_block86 :
    absorb86 (fun i => BitVec.ofNat 8 i) (construct86 0#32) 0 16 =
      { w0 := 0x4DA35DC9#32, w1 := 0xE63B85D2#32, w2 := 0x45E13894#32, w3 := 0xE3E40E30#32 } := by decide +kernel

/-- R145, R146: the tail 01..0F on zero accumulators. -/
theorem test_tail86 :
    tail86 (construct86 0#32) (tailWords86 (fun i => BitVec.ofNat 8 (i + 1)) 0 15) 15 =
      { w0 := 0xFFF4C2EC#32, w1 := 0xFD01BE49#32, w2 := 0x42032719#32, w3 := 0x54D3827C#32 } := by decide +kernel

/-- R149: zero accumulators and length 1. -/
theorem test_final86 :
    final86 (construct86 0#32) 1#64 =
      { w0 := 0x88C4ADEC#32, w1 := 0x54D201B9#32, w2 := 0x54D201B9#32, w3 := 0x54D201B9#32 } := by decide +kernel

/-- R164: seed 0 with bytes 00..0F, line 2 reading the new `H1`. -/
theorem test_block64 :
    absorb64 (fun i => BitVec.ofNat 8 i) (construct64 0#32) 0 16 =
      { h1 := 0xDCAC505EA5C458DF#64, h2 := 0x72927C4BE244042D#64 } := by decide +kernel

/-- R165, R166: the tail 01..0F on zero accumulators. -/
theorem test_tail64 :
    tail64 (construct64 0#32) (tailWords64 (fun i => BitVec.ofNat 8 (i + 1)) 0 15) 15 =
      { h1 := 0x84912EA0966DB987#64, h2 := 0x3E9927EB603CDCD6#64 } := by decide +kernel

/-- R168: zero accumulators and length 1. -/
theorem test_final64 :
    final64 (construct64 0#32) 1#64 = { h1 := 0x4610ABE56EFF5CB5#64, h2 := 0x51622DAA78F83583#64 } := by
  decide +kernel

/-- R193: the digests of "abc" with seed 0 in both 128-bit variants. -/
theorem test_digest_abc :
    sessionDigest .x86 0#32 [abc] = [0xd1#8, 0xc6#8, 0xcd#8, 0x75#8, 0xa5#8, 0x06#8, 0xb0#8, 0xa2#8,
      0xa5#8, 0x06#8, 0xb0#8, 0xa2#8, 0xa5#8, 0x06#8, 0xb0#8, 0xa2#8] ∧
    sessionDigest .x64 0#32 [abc] = [0x67#8, 0x78#8, 0xad#8, 0x3f#8, 0x3f#8, 0x3f#8, 0x96#8, 0xb4#8,
      0x52#8, 0x2d#8, 0xca#8, 0x26#8, 0x41#8, 0x74#8, 0xa2#8, 0x3b#8] := by decide +kernel

/-- 95_test_vectors.md section 2.2: 33 counting bytes, seed 0, 8 blocks and a tail of 1. -/
theorem test_digest_h32 :
    sessionDigest .h32 0#32 [counting 33] = [0x7a#8, 0x86#8, 0x60#8, 0x54#8] := by decide +kernel

/-- R161: a seed with its top bit set is widened by zero-extension. -/
theorem test_seed_x64 :
    sessionDigest .x64 0x80000000#32 [] = [0xb6#8, 0xc5#8, 0x17#8, 0x95#8, 0x22#8, 0x10#8, 0xf1#8, 0x4a#8,
      0x53#8, 0x77#8, 0xd0#8, 0x1f#8, 0x2f#8, 0x82#8, 0xa7#8, 0xdb#8] := by decide +kernel

/-! ### Commands: at most two tests each, one step each -/

/-- R184: `NOP` after reset leaves `STATUS = 0x00003000`. -/
theorem test_nop : (run .nop base).statusWord = 0x00003000#32 := by decide

/-- R185: 128-bit, X86, seed 1. -/
theorem test_init_x86 :
    let t := run .init { base with cfg := { width := .w128, layout := .x86 }, seed := 1#32 }
    t.statusWord = 0x00001002#32 ∧ t.acc = { w0 := 1#32, w1 := 1#32, w2 := 1#32, w3 := 1#32 } := by decide

/-- R183, R161: `Auto` on a platform that selects x64; the seed's top bit is not extended. -/
theorem test_init_auto :
    let t := run .init { base with
      cfg := { width := .w128, layout := .auto }
      seed := 0x9747B28C#32
      params := { bufBytes := 16, autoSelectsX64 := true } }
    t.statusWord = 0x00002002#32 ∧ t.acc = { w0 := 0x9747B28C#32, w1 := 0#32, w2 := 0x9747B28C#32, w3 := 0#32 } := by
  decide

/-- R186: after a whole session, `RESET` gives `ACC0 = 0`, `LEN = 0`, `FIN = 0`. -/
theorem test_reset :
    let t := run .reset finished
    t.acc.w0 = 0#32 ∧ t.len = 0#64 ∧ t.statusWord = 0x00000002#32 := by decide +kernel

/-- R186: `RESET` before any `INIT`. -/
theorem test_reset_notInit : (run .reset base).statusWord = 0x00003440#32 := by decide

/-- R188: "abc" with seed 0. -/
theorem test_update : updated.acc.w0 = 0xA7349DB7#32 ∧ updated.len = 3#64 := by decide +kernel

/-- R187: `OFFSET = -1`, `LENGTH = 1`, also after `FINAL`: the bounds check comes first. -/
theorem test_update_bounds :
    let t := run .update { finished with offset := 0xFFFFFFFF#32, length := 1#32 }
    t.statusWord = 0x0000010E#32 ∧ t.acc.w0 = 0xB3DD93FA#32 ∧ t.len = 3#64 := by decide +kernel

/-- R189: the digest of "abc". -/
theorem test_final : finished.acc.w0 = 0xB3DD93FA#32 ∧ finished.statusWord = 0x00000006#32 := by decide +kernel

/-- R189, R190: a second `FINAL` records `SEQUENCE` and poisons, with `FIN` still 1. -/
theorem test_final_again : (run .final finished).statusWord = 0x00000296#32 := by decide +kernel

/-- R191: `STATUS = 0x0000010A` becomes 0x00000002. -/
theorem test_clrerr :
    let t := run .update { built with offset := 0xFFFFFFFF#32 }
    t.statusWord = 0x0000010A#32 ∧ (run .clrerr t).statusWord = 0x00000002#32 := by decide +kernel

/-- R72: an illegal word records `ILLEGAL_CMD`. -/
theorem test_illegal : (after (base.place 0x00000013#32)).statusWord = 0x00003320#32 := by decide

/-! ### The host -/

/-- R26: a write whose bits 2:1 are 3 leaves `LAYOUT` and still takes `WIDTH`. -/
theorem test_cfg_write :
    (after (hosted [.write 32 0x004 0x00000005#32])).readReg .cfg = 0x00000005#32 ∧
    (after { hosted [.write 32 0x004 0xFFFFFFFE#32] with cfg := { width := .w128, layout := .x64 } }).readReg .cfg =
      0x00000004#32 := by decide

/-- R54: the lanes of a buffer word. -/
theorem test_buffer_lanes :
    let t := after (hosted [.write 32 0x1004 0x44332211#32])
    t.bufByte 4 = 0x11#8 ∧ t.bufByte 7 = 0x44#8 ∧ t.bufWord 4 = 0x44332211#32 := by decide +kernel

/-- R254: with a command pending, a `STATUS` read is permitted and an `ACC0` read is refused. -/
theorem test_busy :
    (after (pendingState 3 [.read 32 0x010])).trace = [.read 0x010 0x00000003#32] ∧
    step (pendingState 3 [.read 32 0x028]) = .refused (.busy 0x028) := ⟨by decide, rfl⟩

/-- R57, R53. -/
theorem test_refused :
    step (hosted [.read 32 0x038]) = .refused (.unmapped 0x038) ∧
    step (hosted [.write 32 0x006 0#32]) = .refused (.misaligned 0x006) ∧
    step (hosted [.read 8 0x010]) = .refused (.badWidth 8) := ⟨rfl, rfl, rfl⟩

/-! ### Witnesses: states and operands that meet a statement's hypotheses, one theorem per statement -/

/-- For `IllegalWordRecordsError`: an illegal word by `RSV`, and one by `OPC`. -/
theorem witness_IllegalWordRecordsError :
    ((base.place 0x13#32).due = some 0x13#32 ∧ (0x13#32 : Word32).extractLsb' 4 28 ≠ 0#28) ∧
    ((base.place 6#32).due = some 6#32 ∧ 6 ≤ ((6#32 : Word32).extractLsb' 0 4).toNat) := by decide

/-- For `StepRunsDecoded`. -/
theorem witness_StepRunsDecoded : (built.place 3#32).due = some 3#32 ∧ decode 3#32 = .ok .update := ⟨rfl, rfl⟩

/-- For `CompletionClearsBusy`: a legal and an illegal word. -/
theorem witness_CompletionClearsBusy :
    (built.place 3#32).due = some 3#32 ∧ (base.place 0xFFFFFFFF#32).due = some 0xFFFFFFFF#32 := by decide

/-- For `CompletionIsBounded`. -/
theorem witness_CompletionIsBounded :
    (pendingState 2 [.wait, .read 32 0x010]).busy = true ∧
    ∀ op ∈ (pendingState 2 [.wait, .read 32 0x010]).host, op = .wait ∨ op = .read 32 0x010 := by decide

/-- For `CommandIssue`, clause by clause. -/
theorem witness_CommandIssue :
    ((hosted [.write 32 0x00C 3#32]).mustPoll = false ∧
      (hosted [.write 32 0x00C 3#32]).host = [.write 32 0x00C 3#32]) ∧
    ((pendingState 1 [.write 32 0x00C 3#32]).due = none ∧ (pendingState 1 [.write 32 0x00C 3#32]).busy = true) ∧
    ((∃ t, step (hosted [.write 32 0x00C 3#32]) = .next t ∧ t.pending = some 3#32) ∧
      (hosted [.write 32 0x00C 3#32]).pending = none) :=
  ⟨by decide, by decide, ⟨_, rfl, rfl⟩, rfl⟩

/-- The invariant holds of `built` whatever the host is still to do, before and during an `UPDATE`. -/
theorem built_inv (ops : List HostOp) (b : Bool) : State.Inv { hosted ops with unsynced := b } where
  memWf := by show (bufOf abc).cells.Pairwise (fun c d => c.1 < d.1); decide
  memBound := by show ∀ c ∈ (bufOf abc).cells, c.1 < 4096; decide
  h32Upper := fun _ => ⟨rfl, rfl, rfl⟩
  unbuilt := fun h => nomatch h
  undefFin := fun h => nomatch h
  busyPoll := fun h => nomatch h
  lastSticky := fun c h => nomatch h
  stickyLast := fun c h => by cases c <;> exact nomatch h

/-- For `HostMustPoll`, clause by clause. -/
theorem witness_HostMustPoll :
    (∃ t, (hosted [.write 32 0x00C 3#32]).due = none ∧ step (hosted [.write 32 0x00C 3#32]) = .next t) ∧
    ((pendingState 1 [.read 32 0x028]).due = none ∧ (pendingState 1 [.read 32 0x028]).mustPoll = true ∧
      ¬(32 = 32 ∧ 0x028 = 0x010)) ∧
    ((pendingState 1 [.write 32 0x010 0#32]).due = none ∧
      (pendingState 1 [.write 32 0x010 0#32]).mustPoll = true) ∧
    ((pendingState 1 [.read 32 0x010]).due = none) ∧
    (∃ t, State.Inv { hosted [.wait] with unsynced := true } ∧
      ({ hosted [.wait] with unsynced := true } : State).resetsNext = false ∧
      step { hosted [.wait] with unsynced := true } = .next t ∧
      ({ hosted [.wait] with unsynced := true } : State).mustPoll = true ∧ t.mustPoll = false) :=
  ⟨⟨_, rfl, rfl⟩, by decide, by decide, by decide, ⟨_, built_inv _ _, rfl, rfl, rfl, rfl⟩⟩

/-- For `StatusReadAlways`: with a command pending. -/
theorem witness_StatusReadAlways :
    (pendingState 1 [.read 32 0x010]).due = none ∧ (pendingState 1 [.read 32 0x010]).host = [.read 32 0x010] := by
  decide

/-- For `BadAccessRefused`: one access for each way, at the edges of the unmapped ranges. -/
theorem witness_BadAccessRefused :
    ((hosted [.read 8 0x010]).due = none ∧ (8 : Nat) ≠ 32) ∧
    ((hosted [.write 32 0x006 0#32]).due = none ∧ 0x006 % 4 ≠ 0) ∧
    ((hosted [.read 32 0x038]).due = none ∧ 0x038 ≤ 0x038 ∧ 0x038 < 0x1000) ∧
    ((hosted [.read 32 0xFFC]).due = none ∧ 0x038 ≤ 0xFFC ∧ 0xFFC < 0x1000) ∧
    ((hosted [.read 32 0x2000]).due = none ∧ 0x1000 + (hosted [.read 32 0x2000]).params.bufBytes ≤ 0x2000) := by
  decide

/-- For `WindowMap`: the offsets where its clauses meet, for the smallest and the largest `BUF_BYTES`. -/
theorem witness_WindowMap :
    bufBytesWf 16 = true ∧ bufBytesWf 0x100000 = true ∧ (0x038 % 4 = 0 ∧ 0x038 ≤ 0x038 ∧ 0x038 < 0x1000) ∧
    (0xFFC % 4 = 0 ∧ 0x038 ≤ 0xFFC ∧ 0xFFC < 0x1000) ∧ (0x1000 % 4 = 0 ∧ 0x1000 < 0x1000 + 16) ∧
    (0x100C % 4 = 0 ∧ 0x100C < 0x1000 + 16) ∧ (0x1010 % 4 = 0 ∧ 0x1000 + 16 ≤ 0x1010) := by decide

/-- For `ReadOnlyWritesIgnored`. -/
theorem witness_ReadOnlyWritesIgnored :
    (hosted [.write 32 0x010 7#32]).mustPoll = false ∧
    Reg.status ∈ [Reg.id, .status, .lenLo, .lenHi, .seedAct, .acc0, .acc1, .acc2, .acc3] ∧
    (hosted [.write 32 0x010 7#32]).host = .write 32 Reg.status.addr 7#32 :: [] := by decide

/-- For `ReadWriteRegisters`. -/
theorem witness_ReadWriteRegisters :
    (hosted [.write 32 0x004 7#32]).mustPoll = false ∧ Reg.cfg ∈ [Reg.cfg, .seed, .offset, .length] ∧
    (hosted [.write 32 0x004 7#32]).host = .write 32 Reg.cfg.addr 7#32 :: [] ∧
    (hosted [.write 32 0x014 7#32]).host = .write 32 Reg.offset.addr 7#32 :: [] := by decide

/-- For `CfgWriteRule`: the layouts that are stored, and the one that is not. -/
theorem witness_CfgWriteRule :
    ((0x00000005#32 : Word32).extractLsb' 1 2 ≠ 3#2 ∧ (0x00000007#32 : Word32).extractLsb' 1 2 = 3#2) ∧
    (0x00000001#32 : Word32).extractLsb' 1 2 = 0#2 ∧ (0x00000003#32 : Word32).extractLsb' 1 2 = 1#2 ∧
    (0x00000005#32 : Word32).extractLsb' 1 2 = 2#2 := by decide

/-- For `HostReadsRegisters`. -/
theorem witness_HostReadsRegisters :
    (hosted [.read 32 0x034]).mustPoll = false ∧ (hosted [.read 32 0x034]).host = .read 32 Reg.acc3.addr :: [] := by
  decide

/-- For `BufferWords`: the first and the last word of `BUF`, written and read. -/
theorem witness_BufferWords :
    ((hosted [.write 32 0x1000 7#32]).mustPoll = false ∧ 0 % 4 = 0 ∧
      0 + 4 ≤ (hosted [.write 32 0x1000 7#32]).params.bufBytes ∧
      (hosted [.write 32 0x1000 7#32]).host = .write 32 (0x1000 + 0) 7#32 :: []) ∧
    (4092 % 4 = 0 ∧ 4092 + 4 ≤ (hosted [.read 32 0x1FFC]).params.bufBytes ∧
      (hosted [.read 32 0x1FFC]).host = .read 32 (0x1000 + 4092) :: []) := by decide

/-- For `OnlyTheHostWritesBuf`. -/
theorem witness_OnlyTheHostWritesBuf :
    ∃ t, step (hosted [.write 32 0x1000 7#32]) = .next t ∧
      t.bufByte 0 ≠ (hosted [.write 32 0x1000 7#32]).bufByte 0 :=
  ⟨_, rfl, by decide⟩

/-- For `BusyFreezesOperands`. -/
theorem witness_BusyFreezesOperands :
    (pendingState 1 [.wait]).busy = true ∧ (pendingState 1 [.wait]).due = none ∧
    (pendingState 1 [.wait]).resetsNext = false ∧ ∃ t, step (pendingState 1 [.wait]) = .next t :=
  ⟨rfl, rfl, rfl, _, rfl⟩

/-- For `WaitPolls`: while a command is pending, and after it. -/
theorem witness_WaitPolls :
    ((pendingState 1 [.wait]).due = none ∧ (pendingState 1 [.wait]).host = [.wait] ∧
      (pendingState 1 [.wait]).busy = true) ∧
    ((hosted [.wait]).due = none ∧ (hosted [.wait]).host = [.wait] ∧ (hosted [.wait]).busy = false) := by decide

/-- For `LoadbufLoads`: five bytes, two words, at the end of `BUF`. -/
theorem witness_LoadbufLoads :
    (hosted (asmLoadbuf 4088 (counting 5))).mustPoll = false ∧ 4088 % 4 = 0 ∧
    4088 + 4 * (((counting 5).length + 3) / 4) ≤ (hosted (asmLoadbuf 4088 (counting 5))).params.bufBytes ∧
    (hosted (asmLoadbuf 4088 (counting 5))).host = asmLoadbuf 4088 (counting 5) ++ [] := by decide

/-- For `IdleDoesNothing`. -/
theorem witness_IdleDoesNothing : (hosted []).busy = false ∧ (hosted []).host = [] := by decide

/-- For `UnserialisedRefused`. -/
theorem witness_UnserialisedRefused :
    (hosted [.unserialised]).due = none ∧ (hosted [.unserialised]).host = [.unserialised] := by decide

/-- For `HardwareReset`: during a command; and `ACTIVE` cleared by it. -/
theorem witness_HardwareReset :
    ((pendingState 1 [.hwReset]).due = none ∧ (pendingState 1 [.hwReset]).host = [.hwReset]) ∧
    ∃ t, step (hosted [.hwReset]) = .next t ∧ (hosted [.hwReset]).active = true ∧ t.active = false :=
  ⟨by decide, _, rfl, rfl, rfl⟩

/-- For `RotationsAreCircular`: the ends of the ranges. -/
theorem witness_RotationsAreCircular : (0 < 32 ∧ 31 < 32) ∧ 0 < 64 ∧ 63 < 64 := by decide

/-- For `TailIsPaddedBlock`: the longest tails and the empty one. -/
theorem witness_TailIsPaddedBlock : (0 ≤ 3 ∧ 3 ≤ 3) ∧ 0 ≤ 15 ∧ 15 ≤ 15 := by decide

/-- For `TailFoldsEveryLane`: the shortest and the longest tail. -/
theorem witness_TailFoldsEveryLane : (1 ≤ 1 ∧ 1 ≤ 15) ∧ 1 ≤ 15 ∧ 15 ≤ 15 := by decide

/-- For `AbsorbDependsOnBytes`: no block and one block absorbed, the shortest and the longest tails; and the same three
bytes at two addresses of two buffers. -/
theorem witness_AbsorbDependsOnBytes :
    (0 % 4 = 0 ∧ 4 % 4 = 0 ∧ 1 ≤ 1 ∧ 3 ≤ 3) ∧ (0 % 16 = 0 ∧ 16 % 16 = 0 ∧ 1 ≤ 1 ∧ 15 ≤ 15) ∧
    ∀ j, j < 3 → (fun a => abc.getD a 0#8) (0 + j) = (fun a => (0#8 :: abc).getD a 1#8) (1 + j) := by decide

/-- For `Chunking`: lengths 0 and 4 are multiples of `H32`'s block size, and 16 of the others'. -/
theorem witness_Chunking :
    (∀ c ∈ [[], counting 4], c.length % Variant.h32.blockBytes = 0) ∧
    (∀ c ∈ [counting 16], c.length % Variant.x64.blockBytes = 0) := by decide

/-- For `DigestBytes`: a digest, no digest before `FINAL`, and none once poisoned. -/
theorem witness_DigestBytes :
    (finished.status.variant = some .h32 ∧ finished.status.fin = true ∧ finished.status.undef = false) ∧
    (updated.status.variant = some .h32 ∧ updated.status.fin = false) ∧
    ((run .final finished).status.variant = some .h32 ∧ (run .final finished).status.undef = true) := by
  decide +kernel

/-- For `NopCommand`. -/
theorem witness_NopCommand : (base.place 0x00000000#32).due = some 0x00000000#32 := by decide

/-- For `ResetCommand`: constructed, and not. -/
theorem witness_ResetCommand : built.status.variant = some .h32 ∧ base.status.variant = none := by decide

/-- For `UpdateChecks`: each way to be out of bounds. -/
theorem witness_UpdateChecks :
    base.status.variant = none ∧ built.status.variant ≠ none ∧
    ({ built with offset := 0xFFFFFFFF#32 } : State).offset.toInt < 0 ∧
    ({ built with length := 0x80000000#32 } : State).length.toInt < 0 ∧
    ({ built with offset := 4094#32 } : State).offset.toInt + ({ built with offset := 4094#32 } : State).length.toInt >
      (({ built with offset := 4094#32 } : State).params.bufBytes : Int) ∧
    (({ built with offset := 4093#32 } : State).offset.toInt = ((4093 : Nat) : Int) ∧
      ({ built with offset := 4093#32 } : State).length.toInt = ((3 : Nat) : Int) ∧
      4093 + 3 ≤ ({ built with offset := 4093#32 } : State).params.bufBytes) := by decide

/-- For `UpdateAbsorption`: the last bytes of `BUF`, with `FIN` 0 and 1, and no bytes at its very end. -/
theorem witness_UpdateAbsorption :
    (({ built with offset := 4093#32 } : State).status.variant = some .h32 ∧
      ({ built with offset := 4093#32 } : State).offset.toInt = ((4093 : Nat) : Int) ∧
      ({ built with offset := 4093#32 } : State).length.toInt = ((3 : Nat) : Int) ∧
      4093 + 3 ≤ ({ built with offset := 4093#32 } : State).params.bufBytes ∧
      ({ built with offset := 4093#32 } : State).status.fin = false) ∧
    (4096 + 0 ≤ ({ built with offset := 4096#32, length := 0#32 } : State).params.bufBytes) ∧
    finished.status.fin = true ∧ finished.length.toInt = ((3 : Nat) : Int) := by decide +kernel

/-- For `FinalCommand`, clause by clause. -/
theorem witness_FinalCommand :
    (updated.status.variant = some .h32 ∧ updated.status.fin = false) ∧
    (finished.status.variant = some .h32 ∧ finished.status.fin = true) ∧ base.status.variant = none := by
  decide +kernel

/-- For `PoisonDraws`: `H32`, and another variant. -/
theorem witness_PoisonDraws :
    finished.status.variant = some .h32 ∧
    (run .init { base with cfg := { width := .w128, layout := .x64 } }).status.variant ≠ some .h32 := by
  decide +kernel

/-- For `ErrorPriority`, clause by clause. -/
theorem witness_ErrorPriority :
    (∃ t, Instr.update ≠ .clrerr ∧ exec .update built = .next t) ∧
    (∃ t, (base.place 0x13#32).due = some 0x13#32 ∧ wordWf 0x13#32 = false ∧ step (base.place 0x13#32) = .next t) ∧
    (∃ t, Instr.update ∈ [Instr.reset, .update, .final] ∧ base.active = false ∧ exec .update base = .next t) ∧
    (∃ t, built.active = true ∧ ({ built with offset := 0xFFFFFFFF#32 } : State).outOfBounds = true ∧
      exec .update { built with offset := 0xFFFFFFFF#32 } = .next t) ∧
    (∃ t, ({ built.finalize .h32 with length := 0#32 } : State).outOfBounds = false ∧
      ({ built.finalize .h32 with length := 0#32 } : State).status.fin = true ∧
      exec .update { built.finalize .h32 with length := 0#32 } = .next t) ∧
    ∃ t, (built.finalize .h32).active = true ∧ exec .final (built.finalize .h32) = .next t :=
  ⟨⟨_, by decide, rfl⟩, ⟨_, rfl, rfl, rfl⟩, ⟨_, by decide, rfl, rfl⟩, ⟨_, rfl, rfl, rfl⟩, ⟨_, rfl, rfl, rfl⟩,
    ⟨_, rfl, rfl⟩⟩

/-- For `ErrorsArePrecise`: `NOT_INIT`, and `BOUNDS`. -/
theorem witness_ErrorsArePrecise :
    (aborts .final base = true ∧ ∃ t, exec .final base = .next t) ∧
    (aborts .update { built with offset := 0xFFFFFFFF#32 } = true ∧
      ∃ t, exec .update { built with offset := 0xFFFFFFFF#32 } = .next t) :=
  ⟨⟨rfl, _, rfl⟩, rfl, _, rfl⟩

/-- For `StickyErrors`: a sticky bit and `ECODE` cleared. -/
theorem witness_StickyErrors :
    ∃ t, step ((base.recordError .illegalCmd).place 5#32) = .next t ∧
      ((base.recordError .illegalCmd).place 5#32).status.sticky .illegalCmd = true ∧
      t.status.sticky .illegalCmd = false ∧ ((base.recordError .illegalCmd).place 5#32).status.ecode ≠ none ∧
      t.status.ecode = none :=
  ⟨_, rfl, rfl, rfl, by decide, rfl⟩

/-- For `SessionWriters`: `INIT` writes the seed, the variant and an accumulator, `FINAL` writes `FIN`, `RESET` writes
`LEN`, a second `FINAL` sets `UNDEF`, and `RESET` clears it. -/
theorem witness_SessionWriters :
    (∃ t, step ({ base with seed := 7#32 }.place 1#32) = .next t ∧ t.seedAct ≠ base.seedAct ∧
      t.status.variant ≠ base.status.variant ∧ t.acc ≠ base.acc) ∧
    (∃ t, step (built.place 4#32) = .next t ∧ t.status.fin ≠ built.status.fin) ∧
    (∃ t, step ({ built with len := 9#64 }.place 2#32) = .next t ∧ t.len ≠ ({ built with len := 9#64 } : State).len) ∧
    (∃ t, step ((built.finalize .h32).place 4#32) = .next t ∧ (built.finalize .h32).status.undef = false ∧
      t.status.undef = true) ∧
    (∃ t, step ((built.finalize .h32).poison.place 2#32) = .next t ∧
      (built.finalize .h32).poison.status.undef = true ∧ t.status.undef = false) :=
  ⟨⟨_, rfl, by decide, by decide, by decide⟩, ⟨_, rfl, by decide⟩, ⟨_, rfl, by decide⟩, ⟨_, rfl, rfl, rfl⟩,
    ⟨_, rfl, rfl, rfl⟩⟩

/-- For `ConfigReadOnlyByInit`. -/
theorem witness_ConfigReadOnlyByInit : Instr.reset ≠ .init ∧ ∃ t, exec .reset built = .next t :=
  ⟨by decide, _, rfl⟩

/-- For `CommandFrame`: a next state from every command. -/
theorem witness_CommandFrame : ∀ i : Instr, ∃ t, exec i built = .next t := by
  intro i; cases i <;> exact ⟨_, rfl⟩

/-- For `NopClrerrFrame`. -/
theorem witness_NopClrerrFrame : (∃ t, exec .nop base = .next t) ∧ ∃ t, exec .clrerr base = .next t :=
  ⟨⟨_, rfl⟩, _, rfl⟩

/-- For `InitResetFrame`: with and without a constructed instance. -/
theorem witness_InitResetFrame :
    (∃ t, exec .init base = .next t) ∧ (∃ t, exec .reset built = .next t ∧ built.active = true) ∧
    ∃ t, exec .reset base = .next t ∧ base.active = false :=
  ⟨⟨_, rfl⟩, ⟨_, rfl, rfl⟩, ⟨_, rfl, rfl⟩⟩

/-- For `UpdateFinalFrame`: both commands, in `H32`, not aborted and with `FIN` 0. -/
theorem witness_UpdateFinalFrame :
    (∃ t, exec .update built = .next t) ∧ (∃ t, exec .final built = .next t) ∧ aborts .update built = false ∧
    aborts .final built = false ∧ built.status.fin = false ∧ built.status.variant = some .h32 :=
  ⟨⟨_, rfl⟩, ⟨_, rfl⟩, rfl, rfl, rfl, rfl⟩

/-- For `StepKeepsInv`. -/
theorem witness_StepKeepsInv :
    State.Inv (hosted [.write 32 0x1000 7#32]) ∧ ∃ t, step (hosted [.write 32 0x1000 7#32]) = .next t :=
  ⟨built_inv _ false, _, rfl⟩

/-- `built` tracks the session without updates. -/
theorem built_tracks : built.Tracks [] := by
  intro v hv _
  cases hv
  exact ⟨rfl, rfl⟩

/-- For `SessionInvariant`: `UPDATE` is due in a state that tracks. -/
theorem witness_SessionInvariant : (built.place 3#32).Tracks [] ∧ ∃ t, step (built.place 3#32) = .next t :=
  ⟨built_tracks, _, rfl⟩

/-- For `DigestIsDetermined`: a finalized session, whose digest is defined. -/
theorem witness_DigestIsDetermined :
    (built.finalize .h32).Tracks [] ∧ (built.finalize .h32).status.variant = some .h32 ∧
    (built.finalize .h32).status.fin = true ∧ (built.finalize .h32).status.undef = false ∧
    (built.finalize .h32).digest ≠ none := by
  refine ⟨?_, rfl, rfl, rfl, by decide +kernel⟩
  intro v hv _
  cases hv
  exact ⟨rfl, rfl⟩

/-- A platform of two instances, each with a `NOP` to issue. -/
def pair : Platform := { insts := [hosted [.write 32 0x00C 0#32], hosted [.write 32 0x00C 0#32]] }

/-- For `InstancesAreIsolated`: one step of each instance. -/
theorem witness_InstancesAreIsolated :
    ∃ q r, pair.stepInst 0 = .next q ∧ q.stepInst 1 = .next r ∧ (0 : Nat) ≠ 1 ∧
      pair.insts[0]? = some (hosted [.write 32 0x00C 0#32]) :=
  ⟨_, _, rfl, rfl, by decide, rfl⟩

/-- For `WindowsDisjoint`: the first and the last byte of a window, for the largest `BUF_BYTES`. -/
theorem witness_WindowsDisjoint :
    bufBytesWf 0x100000 = true ∧ inWindow 0x100000 1 (Config.blockBase 1) = true ∧
    inWindow 0x100000 1 (Config.blockBase 1 + 0x100FFF) = true := by
  refine ⟨by decide, ?_, ?_⟩ <;> simp [inWindow, windowSpan, Config.bufBase]

/-- For `BusRouting`: the last offset of the second instance's slot. -/
theorem witness_BusRouting :
    pair.insts[1]? = some (hosted [.write 32 0x00C 0#32]) ∧ 0x1FFFFF < 2 ^ 21 := ⟨rfl, by decide⟩

end Sys2Proof.Tests
end

namespace Sys2Proof.Machine

/-! ### Buffer words (R9, R54) -/

/-- The offset of a word that lies in `BUF` is mapped to that word (R22, R54). -/
theorem windowTarget_bufBase_add {n a : Nat} (h : a + 4 ≤ n) : windowTarget n (0x1000 + a) = some (.buf a) := by
  have hn : 0x1000 ≤ 0x1000 + a ∧ 0x1000 + a - 0x1000 + 4 ≤ n := by omega
  rw [windowTarget_of_le (by omega), if_pos hn, Nat.add_sub_cancel_left]

/-- A write of a buffer word replaces the four bytes it names and no other byte (R54). -/
theorem State.bufByte_writeTarget_buf (s : State) (a b : Nat) (v : Word32) :
    (s.writeTarget (.buf a) v).bufByte b =
      if a ≤ b ∧ b < a + 4 then byteOf v (b - a) else s.bufByte b := by
  simp only [State.writeTarget, State.bufByte, Memory.get?_write4]
  split <;> rfl

/-- Byte `k` of a word, shifted back to its place, keeps the word's bits `8k+7:8k` and no others (R9). -/
theorem getLsbD_field_byteOf (w : Word32) (k i : Nat) (hi : i < 32) :
    (field (8 * k) (byteOf w k)).getLsbD i = (decide (i / 8 = k) && w.getLsbD i) := by
  rw [getLsbD_field _ _ _ hi, byteOf, BitVec.getLsbD_extractLsb']
  by_cases hlo : 8 * k ≤ i
  · have hlane : i - 8 * k < 8 ↔ i / 8 = k := by omega
    simp [hlo, hlane]
  · have hlane : i / 8 ≠ k := by omega
    simp [hlo, hlane]

/-- A word is its four bytes, the lowest least significant (R9). -/
theorem word_eq_or_bytes (w : Word32) :
    w = field (8 * 0) (byteOf w 0) ||| field (8 * 1) (byteOf w 1) ||| field (8 * 2) (byteOf w 2) |||
      field (8 * 3) (byteOf w 3) := by
  apply BitVec.eq_of_getLsbD_eq
  intro i hi
  simp only [BitVec.getLsbD_or, getLsbD_field_byteOf w _ i hi]
  have hlane : i / 8 = 0 ∨ i / 8 = 1 ∨ i / 8 = 2 ∨ i / 8 = 3 := by omega
  rcases hlane with h | h | h | h <;> simp [h]

/-- The buffer word at `a` is its four bytes of `BUF`, the lowest address least significant (R54). -/
theorem State.bufWord_eq_or (s : State) (a : Nat) :
    s.bufWord a = (s.bufByte a).zeroExtend 32 ||| (s.bufByte (a + 1)).zeroExtend 32 <<< 8 |||
      (s.bufByte (a + 2)).zeroExtend 32 <<< 16 ||| (s.bufByte (a + 3)).zeroExtend 32 <<< 24 := by
  have hbyte : ∀ i, i < 4 → byteOf (s.bufWord a) i = s.bufByte (a + i) := byteOf_memRead s.bufByte a
  rw [word_eq_or_bytes (s.bufWord a), hbyte 0 (by decide), hbyte 1 (by decide), hbyte 2 (by decide),
    hbyte 3 (by decide)]
  simp [field]

/-- A read that reaches the buffer does not show `BUSY`, so it leaves the obligation to poll as it is (R254). -/
@[simp] theorem State.observed_bufTarget (s : State) (a : Nat) : s.observed (.buf a) = s := by
  simp [State.observed]

/-- A permitted host write of a buffer word (R54). -/
theorem step_writeBuf {s : State} {a : Nat} {v : Word32} {rest : List HostOp} (hm : s.mustPoll = false)
    (ha : a % 4 = 0) (hb : a + 4 ≤ s.params.bufBytes) (hh : s.host = .write 32 (0x1000 + a) v :: rest) :
    step s = .next ((({ s with host := rest } : State).log (.write (0x1000 + a) v)).writeTarget (.buf a) v) :=
  step_write hm (by omega) (windowTarget_bufBase_add hb) hh

/-- A permitted host read of a buffer word (R54). -/
theorem step_readBuf {s : State} {a : Nat} {rest : List HostOp} (hm : s.mustPoll = false)
    (ha : a % 4 = 0) (hb : a + 4 ≤ s.params.bufBytes) (hh : s.host = .read 32 (0x1000 + a) :: rest) :
    step s = .next (({ s with host := rest } : State).log (.read (0x1000 + a) (s.bufWord a))) := by
  rw [step_read hm (by omega) (windowTarget_bufBase_add hb) hh, State.observed_bufTarget]
  rfl

/-- Settles O17, from what a permitted write and a permitted read of a buffer word are. -/
theorem bufferWords : Obligations.BufferWords := by
  unfold Obligations.BufferWords
  refine ⟨fun s a v rest hm ha hb hh => ⟨_, step_writeBuf hm ha hb hh, ?_, ?_, ?_⟩,
    fun s a rest hm ha hb hh => ⟨_, step_readBuf hm ha hb hh, ?_⟩⟩
  · intro i hi
    rw [State.bufByte_writeTarget_buf, if_pos (by omega), Nat.add_sub_cancel_left]
    rfl
  · intro b hout
    rw [State.bufByte_writeTarget_buf, if_neg hout]
    rfl
  · exact ⟨rfl, rfl, ⟨rfl, rfl, rfl, rfl⟩, ⟨rfl, rfl, rfl, rfl, rfl, rfl, rfl⟩, ⟨rfl, rfl, rfl, rfl, rfl⟩⟩
  · rw [s.bufWord_eq_or]
    exact ⟨rfl, rfl, rfl, sameBytes_of_buf rfl rfl rfl, ⟨rfl, rfl, rfl, rfl⟩, ⟨rfl, rfl, rfl, rfl, rfl, rfl, rfl⟩,
      ⟨rfl, rfl, rfl, rfl, rfl⟩⟩

end Sys2Proof.Machine

namespace Sys2Proof.Machine

variable {i : Instr} {s t : State} {v : Variant}

/-! ### The frame of a command -/

/-- A command writes `STATUS`, `LEN`, `SEED_ACT`, the accumulators and the count of draws, and nothing else (R181). -/
theorem exec_eq_update (h : exec i s = .next t) :
    t = { s with
      status := t.status
      len := t.len
      seedAct := t.seedAct
      acc := t.acc
      draws := t.draws } := by
  apply exec_effect (P := fun t => t = { s with
    status := t.status, len := t.len, seedAct := t.seedAct, acc := t.acc, draws := t.draws }) h <;> intros <;> rfl

/-- Settles O50, from the fields a command writes. -/
theorem commandFrame : Obligations.CommandFrame := by
  unfold Obligations.CommandFrame
  intro i s t h
  rw [exec_eq_update h]
  exact ⟨⟨rfl, rfl, rfl, rfl⟩, ⟨rfl, rfl, rfl, rfl, rfl, rfl, rfl, rfl, rfl, rfl⟩, rfl, fun _ => rfl⟩

/-! ### The invariant: what keeps it, operation by operation -/

/-- Settles O54: nothing is listed, latched, pending or recorded after hardware reset. -/
theorem invAtReset : Obligations.InvAtReset where
  memWf := State.reset_mem_wf
  memBound := by simp [State.reset]
  h32Upper := fun h => nomatch h
  unbuilt := fun _ => ⟨rfl, rfl, rfl, rfl⟩
  undefFin := fun h => nomatch h
  busyPoll := fun h => nomatch h
  lastSticky := fun _ h => nomatch h
  stickyLast := fun c h => by simp [State.reset] at h

/-- The invariant speaks of `BUF`, the parameters, the obligation to poll and the session's registers only. -/
theorem State.Inv.of_sameSession (hi : s.Inv) (hstatus : t.status = s.status) (hacc : t.acc = s.acc)
    (hlen : t.len = s.len) (hseed : t.seedAct = s.seedAct) (memWf : t.buf.wf)
    (memBound : ∀ c ∈ t.buf.cells, c.1 < t.params.bufBytes) (busyPoll : t.busy = true → t.unsynced = true) :
    t.Inv where
  memWf := memWf
  memBound := memBound
  h32Upper := by rw [hstatus, hacc]; exact hi.h32Upper
  unbuilt := by rw [hstatus, hacc, hlen, hseed]; exact hi.unbuilt
  undefFin := by rw [hstatus]; exact hi.undefFin
  busyPoll := busyPoll
  lastSticky := by rw [hstatus]; exact hi.lastSticky
  stickyLast := by rw [hstatus]; exact hi.stickyLast

/-- Recording an error sets its sticky bit and `ECODE` together (R221). -/
theorem State.Inv.recordError (hi : s.Inv) (c : ErrCode) : (s.recordError c).Inv where
  memWf := hi.memWf
  memBound := hi.memBound
  h32Upper := by simpa using hi.h32Upper
  unbuilt := by simpa using hi.unbuilt
  undefFin := by simpa using hi.undefFin
  busyPoll := hi.busyPoll
  lastSticky := by simp
  stickyLast := by simp

/-- `CLRERR` clears the sticky bits and `ECODE` together (R191). -/
theorem State.Inv.clearErrors (hi : s.Inv) : ({ s with status := s.status.clearErrors } : State).Inv where
  memWf := hi.memWf
  memBound := hi.memBound
  h32Upper := hi.h32Upper
  unbuilt := hi.unbuilt
  undefFin := hi.undefFin
  busyPoll := hi.busyPoll
  lastSticky := by simp
  stickyLast := by simp

/-- Construction of the latched variant opens a session that is not finalized, `H32`'s upper words 0 (R121, R185). -/
theorem State.Inv.construct (hi : s.Inv) (hv : s.status.variant = some v) : (s.construct v).Inv where
  memWf := hi.memWf
  memBound := hi.memBound
  h32Upper := by
    intro h
    obtain rfl : v = .h32 := by simpa [hv] using h
    simp [constructAcc_h32]
  unbuilt := by simp [hv]
  undefFin := by simp
  busyPoll := hi.busyPoll
  lastSticky := hi.lastSticky
  stickyLast := hi.stickyLast

/-- `INIT` constructs the variant it has latched, whatever the accumulators held before (R185). -/
theorem State.Inv.init (hi : s.Inv) : (s.latch.construct s.selected).Inv where
  memWf := hi.memWf
  memBound := hi.memBound
  h32Upper := by
    intro h
    have hsel : s.selected = .h32 := by simpa using h
    simp [hsel, constructAcc_h32]
  unbuilt := by simp
  undefFin := by simp
  busyPoll := hi.busyPoll
  lastSticky := hi.lastSticky
  stickyLast := hi.stickyLast

/-- Poisoning a finalized session leaves `H32`'s upper words as they are (R37, R190). -/
theorem State.Inv.poison (hi : s.Inv) (hv : s.status.variant = some v) (hf : s.status.fin = true) :
    s.poison.Inv where
  memWf := hi.memWf
  memBound := hi.memBound
  h32Upper := by
    intro h
    have h32 : s.status.variant = some .h32 := by simpa using h
    simpa [State.poisonedAcc, h32] using hi.h32Upper h32
  unbuilt := by simp [hv]
  undefFin := by simp [hf]
  busyPoll := hi.busyPoll
  lastSticky := hi.lastSticky
  stickyLast := hi.stickyLast

theorem State.Inv.misuse (hi : s.Inv) (hv : s.status.variant = some v) (hf : s.status.fin = true) :
    s.misuse.Inv :=
  (hi.recordError .sequence).poison (v := v) (by simpa using hv) (by simpa using hf)

theorem State.Inv.addLen (hi : s.Inv) (hv : s.status.variant = some v) (n : Nat) : (s.addLen n).Inv where
  memWf := hi.memWf
  memBound := hi.memBound
  h32Upper := hi.h32Upper
  unbuilt := by simp [hv]
  undefFin := hi.undefFin
  busyPoll := hi.busyPoll
  lastSticky := hi.lastSticky
  stickyLast := hi.stickyLast

/-- Absorption in `H32` writes `ACC[0]` only (R37, R127). -/
theorem State.Inv.absorb (hi : s.Inv) (hv : s.status.variant = some v) : (s.absorb v).Inv where
  memWf := hi.memWf
  memBound := hi.memBound
  h32Upper := by
    intro h
    have h32 : s.status.variant = some .h32 := by simpa using h
    obtain rfl : v = .h32 := by simpa [hv] using h32
    simpa using hi.h32Upper h32
  unbuilt := by simp [hv]
  undefFin := hi.undefFin
  busyPoll := hi.busyPoll
  lastSticky := hi.lastSticky
  stickyLast := hi.stickyLast

/-- The fold-down in `H32` writes `ACC[0]` only (R37, R128). -/
theorem State.Inv.finalize (hi : s.Inv) (hv : s.status.variant = some v) : (s.finalize v).Inv where
  memWf := hi.memWf
  memBound := hi.memBound
  h32Upper := by
    intro h
    have h32 : s.status.variant = some .h32 := by simpa using h
    obtain rfl : v = .h32 := by simpa [hv] using h32
    simpa using hi.h32Upper h32
  unbuilt := by simp [hv]
  undefFin := by simp
  busyPoll := hi.busyPoll
  lastSticky := hi.lastSticky
  stickyLast := hi.stickyLast

/-- Every command keeps the invariant. -/
theorem State.Inv.exec (hi : s.Inv) (h : exec i s = .next t) : t.Inv :=
  exec_effect h
    (nop := fun _ => hi)
    (init := fun _ => hi.init)
    (notInit := fun _ _ => hi.recordError .notInit)
    (reset := fun _ _ hv => hi.construct hv)
    (bounds := fun _ _ _ _ => hi.recordError .bounds)
    (late := fun _ _ hv _ hf => (hi.misuse hv hf).addLen (by simpa [State.misuse] using hv) _)
    (absorb := fun _ _ hv _ _ => (hi.absorb hv).addLen (by simpa using hv) _)
    (again := fun _ _ hv hf => hi.misuse hv hf)
    (final := fun _ _ hv _ => hi.finalize hv)
    (clrerr := fun _ => hi.clearErrors)

theorem State.Inv.retire (hi : s.Inv) : s.retire.Inv :=
  hi.of_sameSession rfl rfl rfl rfl hi.memWf hi.memBound (fun h => nomatch h)

/-- The host's list and its record are not the block's. -/
theorem State.Inv.log (hi : s.Inv) (rest : List HostOp) (rec : BusRecord) :
    (({ s with host := rest } : State).log rec).Inv :=
  hi.of_sameSession rfl rfl rfl rfl hi.memWf hi.memBound hi.busyPoll

/-- The obligation to poll ends only when nothing is pending (R254). -/
theorem State.Inv.observed (hi : s.Inv) (tgt : Target) : (s.observed tgt).Inv := by
  refine hi.of_sameSession (by simp) (by simp) (by simp) (by simp) (by simpa using hi.memWf)
    (by simpa using hi.memBound) fun hb => ?_
  have hbusy : s.busy = true := by simpa [State.busy] using hb
  simp [hbusy, hi.busyPoll hbusy]

/-- A write to a register issues a command with the host obliged to poll, or issues none (R180, R254). -/
theorem State.Inv.writeReg (hi : s.Inv) (r : Reg) (w : Word32) : (s.writeReg r w).Inv := by
  refine hi.of_sameSession (by simp) (by simp) (by simp) (by simp) (by simpa using hi.memWf)
    (by simpa using hi.memBound) ?_
  cases r
  case cmd => exact fun _ => rfl
  all_goals exact hi.busyPoll

/-- A write to `BUF` keeps its list canonical and, where the word lies in `BUF`, within it (R35, R54). -/
theorem State.Inv.writeBuf (hi : s.Inv) {a : Nat} (ha : a + 4 ≤ s.params.bufBytes) (w : Word32) :
    (s.writeTarget (.buf a) w).Inv := by
  refine hi.of_sameSession rfl rfl rfl rfl (Memory.write4_wf hi.memWf a w) (fun c hc => ?_) hi.busyPoll
  show c.1 < s.params.bufBytes
  rcases Memory.mem_write4 hc with ⟨-, hlt⟩ | hc
  · omega
  · exact hi.memBound c hc

theorem State.Inv.hardwareReset (s : State) : s.hardwareReset.Inv :=
  State.Inv.of_sameSession invAtReset rfl rfl rfl rfl State.reset_mem_wf (fun _ h => nomatch h) (fun h => nomatch h)

/-- Every operation of the outside world keeps the invariant. -/
theorem State.Inv.hostStep (hi : s.Inv) (h : s.hostStep = .next t) : t.Inv := by
  rcases hostStep_cases h with ⟨-, rfl⟩ | ⟨_, off, rest, tgt, -, -, rfl⟩ | ⟨_, off, w, rest, tgt, -, ha, rfl⟩ |
    ⟨_, -, -, rfl⟩ | ⟨rest, -, -, rfl⟩ | ⟨rest, -, rfl⟩
  · exact hi
  · exact (hi.log rest _).observed tgt
  · have hl := hi.log rest (.write off w)
    cases tgt with
    | reg r => exact hl.writeReg r w
    | buf a =>
      obtain ⟨-, -, ht, -⟩ := access_ok ha
      exact hl.writeBuf (windowTarget_buf ht).2 w
  · exact (hi.log s.host _).observed _
  · exact (hi.log rest _).observed _
  · exact State.Inv.hardwareReset _

/-- Settles O55, from what a step can do: a command's effect and its retirement, an illegal word's error, or an
operation of the outside world. -/
theorem stepKeepsInv : Obligations.StepKeepsInv := by
  unfold Obligations.StepKeepsInv
  intro s t hi h
  rcases step_cases h with ⟨_, _, u, -, -, hu, rfl⟩ | ⟨_, _, -, -, rfl⟩ | ⟨-, hh⟩
  · exact (hi.exec hu).retire
  · exact (hi.recordError .illegalCmd).retire
  · exact hi.hostStep hh

end Sys2Proof.Machine

namespace Sys2Proof.Machine

variable {i : Instr} {s t : State} {v : Variant} {chunks : List (List Byte)}

/-! ### What the outside world does to a session -/

/-- An operation of the outside world other than hardware reset leaves the session and `STATUS` as they are. -/
theorem hostStep_session (h : s.hostStep = .next t) :
    (∃ rest, s.host = .hwReset :: rest ∧ t = ({ s with host := rest } : State).hardwareReset) ∨
      (s.host.head? ≠ some .hwReset ∧ t.status = s.status ∧ SameSession s t) := by
  rcases hostStep_cases h with ⟨hh, rfl⟩ | ⟨_, _, _, _, hh, -, rfl⟩ | ⟨_, _, _, _, _, hh, -, rfl⟩ |
    ⟨_, hh, -, rfl⟩ | ⟨_, hh, -, rfl⟩ | ⟨rest, hh, rfl⟩
  case inr.inr.inr.inr.inr => exact .inl ⟨rest, hh, rfl⟩
  all_goals exact .inr ⟨by simp [hh], by simp [State.poll], by constructor <;> simp [State.poll]⟩

/-! ### Absorption depends only on the bytes read (R56, R193) -/

section Congr

variable {rd rd' : Nat → Byte} {a a' n : Nat}

theorem blockWord32_congr (h : ∀ j, j < 4 → rd (a + j) = rd' (a' + j)) : blockWord32 rd a = blockWord32 rd' a' := by
  simp only [blockWord32, memRead_congr 4 h]

/-- The bytes from an address on, at a distance from it. -/
theorem bytes_shift {m : Nat} (k : Nat) (h : ∀ j, j < n → rd (a + j) = rd' (a' + j)) (hk : k + m ≤ n) (j : Nat)
    (hj : j < m) : rd (a + k + j) = rd' (a' + k + j) := by
  simpa only [Nat.add_assoc] using h (k + j) (by omega)

theorem blockWords86_congr (h : ∀ j, j < 16 → rd (a + j) = rd' (a' + j)) :
    blockWords86 rd a = blockWords86 rd' a' := by
  simp only [blockWords86, memRead_congr 4 fun j hj => h j (by omega), memRead_congr 4 (bytes_shift 4 h (by decide)),
    memRead_congr 4 (bytes_shift 8 h (by decide)), memRead_congr 4 (bytes_shift 12 h (by decide))]

theorem blockWords64_congr (h : ∀ j, j < 16 → rd (a + j) = rd' (a' + j)) :
    blockWords64 rd a = blockWords64 rd' a' := by
  simp only [blockWords64, memRead_congr 8 fun j hj => h j (by omega), memRead_congr 8 (bytes_shift 8 h (by decide))]

theorem blocks32_congr (x : Word32) (nb : Nat) (h : ∀ j, j < 4 * nb → rd (a + j) = rd' (a' + j)) :
    blocks32 rd x a nb = blocks32 rd' x a' nb := by
  induction nb with
  | zero => rfl
  | succ nb ih =>
    rw [blocks32_succ, blocks32_succ, ih fun j hj => h j (by omega),
      blockWord32_congr (bytes_shift (4 * nb) h (by omega))]

theorem blocks86_congr (x : Words4) (nb : Nat) (h : ∀ j, j < 16 * nb → rd (a + j) = rd' (a' + j)) :
    blocks86 rd x a nb = blocks86 rd' x a' nb := by
  induction nb with
  | zero => rfl
  | succ nb ih =>
    rw [blocks86_succ, blocks86_succ, ih fun j hj => h j (by omega),
      blockWords86_congr (bytes_shift (16 * nb) h (by omega))]

theorem blocks64_congr (x : Words2) (nb : Nat) (h : ∀ j, j < 16 * nb → rd (a + j) = rd' (a' + j)) :
    blocks64 rd x a nb = blocks64 rd' x a' nb := by
  induction nb with
  | zero => rfl
  | succ nb ih =>
    rw [blocks64_succ, blocks64_succ, ih fun j hj => h j (by omega),
      blockWords64_congr (bytes_shift (16 * nb) h (by omega))]

theorem tailLoop32_congr (r : Nat) (h : ∀ j, j < r → rd (a + j) = rd' (a' + j)) (k : Word32) :
    tailLoop32 rd a k r = tailLoop32 rd' a' k r := by
  induction r generalizing k with
  | zero => rfl
  | succ r ih => rw [tailLoop32_succ, tailLoop32_succ, h r (by omega), ih fun j hj => h j (by omega)]

theorem tailLoop86_congr (r : Nat) (h : ∀ j, j < r → rd (a + j) = rd' (a' + j)) (k : Words4) :
    tailLoop86 rd a k r = tailLoop86 rd' a' k r := by
  induction r generalizing k with
  | zero => rfl
  | succ r ih => rw [tailLoop86_succ, tailLoop86_succ, h r (by omega), ih fun j hj => h j (by omega)]

theorem tailLoop64_congr (r : Nat) (h : ∀ j, j < r → rd (a + j) = rd' (a' + j)) (k : Words2) :
    tailLoop64 rd a k r = tailLoop64 rd' a' k r := by
  induction r generalizing k with
  | zero => rfl
  | succ r ih => rw [tailLoop64_succ, tailLoop64_succ, h r (by omega), ih fun j hj => h j (by omega)]

theorem absorb32_congr (x : Word32) (h : ∀ j, j < n → rd (a + j) = rd' (a' + j)) :
    absorb32 rd x a n = absorb32 rd' x a' n := by
  have htail : tailWord32 rd (a + 4 * (n / 4)) (n % 4) = tailWord32 rd' (a' + 4 * (n / 4)) (n % 4) :=
    tailLoop32_congr _ (bytes_shift (4 * (n / 4)) h (by omega)) _
  simp only [absorb32, htail, blocks32_congr x (n / 4) fun j hj => h j (by omega)]

theorem absorb86_congr (x : Words4) (h : ∀ j, j < n → rd (a + j) = rd' (a' + j)) :
    absorb86 rd x a n = absorb86 rd' x a' n := by
  have htail : tailWords86 rd (a + 16 * (n / 16)) (n % 16) = tailWords86 rd' (a' + 16 * (n / 16)) (n % 16) :=
    tailLoop86_congr _ (bytes_shift (16 * (n / 16)) h (by omega)) _
  simp only [absorb86, htail, blocks86_congr x (n / 16) fun j hj => h j (by omega)]

theorem absorb64_congr (x : Words2) (h : ∀ j, j < n → rd (a + j) = rd' (a' + j)) :
    absorb64 rd x a n = absorb64 rd' x a' n := by
  have htail : tailWords64 rd (a + 16 * (n / 16)) (n % 16) = tailWords64 rd' (a' + 16 * (n / 16)) (n % 16) :=
    tailLoop64_congr _ (bytes_shift (16 * (n / 16)) h (by omega)) _
  simp only [absorb64, htail, blocks64_congr x (n / 16) fun j hj => h j (by omega)]

/-- Absorption depends only on the bytes read, wherever they stand (R56, R193). -/
theorem absorbAcc_congr (v : Variant) (acc : Words4) (h : ∀ j, j < n → rd (a + j) = rd' (a' + j)) :
    absorbAcc v rd acc a n = absorbAcc v rd' acc a' n := by
  cases v with
  | h32 => simp only [absorbAcc, absorb32_congr acc.w0 h]
  | x86 => simp only [absorbAcc, absorb86_congr acc h]
  | x64 => simp only [absorbAcc, absorb64_congr acc.toPair h]

end Congr

/-! ### Sessions (R36) -/

@[simp] theorem State.bufBytesAt_length (s : State) (a n : Nat) : (s.bufBytesAt a n).length = n := by
  simp [State.bufBytesAt]

theorem State.bufBytesAt_getD (s : State) {a n j : Nat} (hj : j < n) :
    (s.bufBytesAt a n).getD j 0#8 = s.bufByte (a + j) := by
  simp [State.bufBytesAt, hj]

/-- Absorption from the buffer is the absorption of the byte string that stands there (R193). -/
theorem absorbAcc_bufByte (v : Variant) (s : State) (acc : Words4) (a n : Nat) :
    absorbAcc v s.bufByte acc a n = absorbBytes v acc (s.bufBytesAt a n) := by
  rw [absorbBytes, s.bufBytesAt_length]
  exact absorbAcc_congr v acc fun j hj => by rw [Nat.zero_add, s.bufBytesAt_getD hj]

/-- A further byte string is absorbed after those before it. -/
theorem sessionAcc_append (v : Variant) (seed : Word32) (chunks : List (List Byte)) (bytes : List Byte) :
    sessionAcc v seed (chunks ++ [bytes]) = absorbBytes v (sessionAcc v seed chunks) bytes := by
  simp [sessionAcc]

/-- A further byte string adds its length to the counter, modulo 2^64. -/
theorem sessionLen_append (chunks : List (List Byte)) (bytes : List Byte) :
    sessionLen (chunks ++ [bytes]) = sessionLen chunks + BitVec.ofNat 64 bytes.length := by
  simp [sessionLen, BitVec.ofNat_add]

theorem State.Tracks.of_sameSession (ht : s.Tracks chunks) (h : SameSession s t) : t.Tracks chunks := by
  intro v hv hu
  rw [h.len, h.acc, h.fin, h.seedAct]
  exact ht v (h.variant ▸ hv) (h.undef ▸ hu)

/-- R36 asks nothing before construction. -/
theorem tracks_of_variant_none (hv : s.status.variant = none) (chunks : List (List Byte)) : s.Tracks chunks :=
  fun _ hv' _ => by simp [hv] at hv'

/-- R36 asks nothing of unspecified accumulators. -/
theorem tracks_of_undef (hu : s.status.undef = true) (chunks : List (List Byte)) : s.Tracks chunks :=
  fun _ _ hu' => by simp [hu] at hu'

/-- Construction of the latched variant opens a session with no byte string (R121, R141, R161, R185). -/
theorem construct_tracks (hv : s.status.variant = some v) : (s.construct v).Tracks [] := by
  intro v' hv' _
  obtain rfl : v = v' := by simpa [hv] using hv'
  exact ⟨rfl, rfl⟩

/-- An accepted `UPDATE` appends its byte string to the session (R188). -/
theorem State.Tracks.absorb (ht : s.Tracks chunks) (hv : s.status.variant = some v) (hf : s.status.fin = false) :
    ((s.absorb v).addLen s.updLength.toNat).Tracks (chunks ++ [s.updBytes]) := by
  intro v' hv' hu
  obtain rfl : v = v' := by simpa [hv] using hv'
  obtain ⟨hlen, hacc⟩ := ht v hv (by simpa using hu)
  simp only [hf, Bool.false_eq_true, if_false] at hacc
  simp [hf, hlen, hacc, sessionLen_append, sessionAcc_append, absorbAcc_bufByte, State.updBytes]

/-- `FINAL` folds the session's accumulators down and keeps its byte strings (R189). -/
theorem State.Tracks.finalize (ht : s.Tracks chunks) (hv : s.status.variant = some v) (hf : s.status.fin = false) :
    (s.finalize v).Tracks chunks := by
  intro v' hv' hu
  obtain rfl : v = v' := by simpa [hv] using hv'
  obtain ⟨hlen, hacc⟩ := ht v hv (by simpa using hu)
  simp only [hf, Bool.false_eq_true, if_false] at hacc
  simp [hlen, hacc]

/-- Every command leaves a session of the byte strings accepted so far (R36). -/
theorem State.Tracks.exec (ht : s.Tracks chunks) (h : exec i s = .next t) : t.Tracks (chunksAfter i s chunks) := by
  refine exec_effect (P := fun t => t.Tracks (chunksAfter i s chunks)) h ?nop ?init ?notInit ?reset ?bounds ?late
    ?absorb ?again ?final ?clrerr
  case nop => rintro rfl; exact ht
  case init => rintro rfl; exact construct_tracks rfl
  case notInit => exact fun _ hv => tracks_of_variant_none (by simpa using hv) _
  case reset =>
    rintro v rfl hv
    simpa [chunksAfter, State.active, hv] using construct_tracks hv
  case bounds =>
    rintro v rfl hv hb
    simp only [chunksAfter, State.absorbs, hb, Bool.not_true, Bool.and_false, Bool.false_and]
    exact ht.of_sameSession ⟨rfl, rfl, rfl, rfl, rfl, rfl, rfl⟩
  case late => exact fun _ _ _ _ _ => tracks_of_undef rfl _
  case absorb =>
    rintro v rfl hv hb hf
    simpa [chunksAfter, State.absorbs, State.active, hv, hb, hf] using ht.absorb hv hf
  case again => exact fun _ _ _ _ => tracks_of_undef rfl _
  case final => rintro v rfl hv hf; exact ht.finalize hv hf
  case clrerr => rintro rfl; exact ht.of_sameSession ⟨rfl, rfl, rfl, rfl, rfl, rfl, rfl⟩

/-- Every operation of the outside world leaves the session, or is the hardware reset that ends it (R250). -/
theorem State.Tracks.hostStep (ht : s.Tracks chunks) (h : s.hostStep = .next t) :
    t.Tracks (if s.host.head? = some .hwReset then [] else chunks) := by
  rcases hostStep_session h with ⟨rest, hh, rfl⟩ | ⟨hh, -, hs⟩
  · exact tracks_of_variant_none rfl _
  · rw [if_neg hh]
    exact ht.of_sameSession hs

/-- Settles O56, from what a step can do: a command's effect on the session, an illegal word, which leaves it, or an
operation of the outside world. -/
theorem sessionInvariant : Obligations.SessionInvariant := by
  unfold Obligations.SessionInvariant
  refine ⟨tracks_of_variant_none rfl _, fun s t chunks ht h => ?_⟩
  rcases step_cases h with ⟨w, i, u, hd, hi, hu, rfl⟩ | ⟨w, e, hd, he, rfl⟩ | ⟨hd, hh⟩
  · simp only [chunksAfterStep, hd, hi]
    exact (ht.exec hu).of_sameSession ⟨rfl, rfl, rfl, rfl, rfl, rfl, rfl⟩
  · simp only [chunksAfterStep, hd, he]
    exact ht.of_sameSession ⟨rfl, rfl, rfl, rfl, rfl, rfl, rfl⟩
  · simp only [chunksAfterStep, hd]
    exact ht.hostStep hh

end Sys2Proof.Machine

namespace Sys2Proof.Machine

variable {i : Instr} {s t : State} {v : Variant} {rest : List HostOp}

/-! ### The window (R22, R57) -/

/-- Settles O11, from the registers' own offsets and what lies above them. -/
theorem windowMap : Obligations.WindowMap := by
  unfold Obligations.WindowMap
  intro n hn
  have hword : n % 4 = 0 := by
    simp only [bufBytesWf, Bool.and_eq_true, beq_iff_eq] at hn
    exact hn.1.1
  refine ⟨⟨windowTarget_reg n .id, windowTarget_reg n .cfg, windowTarget_reg n .seed, windowTarget_reg n .cmd,
    windowTarget_reg n .status, windowTarget_reg n .offset, windowTarget_reg n .length, windowTarget_reg n .lenLo,
    windowTarget_reg n .lenHi, windowTarget_reg n .seedAct, windowTarget_reg n .acc0, windowTarget_reg n .acc1,
    windowTarget_reg n .acc2, windowTarget_reg n .acc3⟩, fun off ho => ⟨fun h1 h2 => ?_, fun h1 h2 => ?_, fun h => ?_⟩⟩
  · rw [windowTarget_of_le h1, if_neg (by omega)]
  · rw [windowTarget_of_le (by omega), if_pos (by omega)]
  · rw [windowTarget_of_le (by omega), if_neg (by omega)]

/-! ### Hardware reset (R250) -/

/-- The next operation of the outside world is the one performed. -/
theorem hostStep_cons {op : HostOp} (hh : s.host = op :: rest) : s.hostStep = s.perform op rest := by
  simp [State.hostStep, hh]

theorem step_hwReset (hd : s.due = none) (hh : s.host = .hwReset :: rest) :
    step s = .next ({ s with host := rest } : State).hardwareReset := by
  rw [step_of_due_none hd, hostStep_cons hh]
  rfl

theorem resetsNext_of_host (hd : s.due = none) (hh : s.host = .hwReset :: rest) : s.resetsNext = true := by
  simp [State.resetsNext, hd, hh]

@[simp] theorem State.retire_active (s : State) : s.retire.active = s.active := rfl

@[simp] theorem State.recordError_active (s : State) (c : ErrCode) : (s.recordError c).active = s.active := by
  simp [State.active]

/-- No command takes a latched variant away (R29, R251). -/
theorem exec_active (h : exec i s = .next t) (ha : s.active = true) : t.active = true := by
  refine exec_effect (P := fun t => t.active = true) h ?nop ?init ?notInit ?reset ?bounds ?late ?absorb ?again ?final
    ?clrerr
  case init => exact fun _ => rfl
  all_goals intros; simpa [State.active, State.misuse] using ha

/-- Settles O25, from the step of a hardware reset and from what a command and a host operation leave of `VARIANT`. -/
theorem hardwareReset : Obligations.HardwareReset := by
  unfold Obligations.HardwareReset
  refine ⟨fun s rest hd hh => ⟨_, step_hwReset hd hh, fun r => ?_, rfl, rfl, rfl, rfl, fun _ => rfl, rfl, rfl⟩,
    fun s t h ha hna => ?_⟩
  · cases r <;> rfl
  · rcases step_cases h with ⟨w, i, u, -, -, hu, rfl⟩ | ⟨w, e, -, -, rfl⟩ | ⟨hd, hh⟩
    · simp [exec_active hu ha] at hna
    · simp [ha] at hna
    · rcases hostStep_session hh with ⟨rest, hh, -⟩ | ⟨-, hstatus, -⟩
      · exact resetsNext_of_host hd hh
      · have hact : t.active = true := by rw [State.active, hstatus]; exact ha
        simp [hact] at hna

/-! ### The bytes of `BUF` (R35) -/

/-- A write to a register is no write to `BUF` (R54). -/
theorem State.bufByte_writeReg (s : State) (r : Reg) (w : Word32) (a : Nat) :
    (s.writeReg r w).bufByte a = s.bufByte a :=
  State.bufByte_congr (by simp) (by simp) (by simp) a

/-- An operation of the outside world changes a byte of `BUF` only as a write of its word or as hardware reset. -/
theorem hostStep_bufByte (h : s.hostStep = .next t) {a : Nat} (hne : t.bufByte a ≠ s.bufByte a) :
    (∃ b w rest, s.host = .write 32 (0x1000 + b) w :: rest ∧ b ≤ a ∧ a < b + 4) ∨
      ∃ rest, s.host = .hwReset :: rest := by
  rcases hostStep_cases h with ⟨-, rfl⟩ | ⟨_, _, _, _, -, -, rfl⟩ | ⟨_, off, w, rest, tgt, hh, ha, rfl⟩ |
    ⟨_, -, -, rfl⟩ | ⟨_, -, -, rfl⟩ | ⟨rest, hh, -⟩
  · exact absurd rfl hne
  · exact absurd (State.bufByte_congr (by simp) (by simp) (by simp) a) hne
  · obtain ⟨rfl, -, ht, -⟩ := access_ok ha
    cases tgt with
    | reg r => exact absurd (State.bufByte_writeReg _ r w a) hne
    | buf b =>
      obtain ⟨rfl, -⟩ := windowTarget_buf ht
      rw [State.bufByte_writeTarget_buf] at hne
      split at hne
      · rename_i hin
        exact .inl ⟨b, w, rest, hh, hin⟩
      · exact absurd rfl hne
  · exact absurd (State.bufByte_congr (by simp [State.poll]) (by simp [State.poll]) (by simp [State.poll]) a) hne
  · exact absurd (State.bufByte_congr (by simp [State.poll]) (by simp [State.poll]) (by simp [State.poll]) a) hne
  · exact .inr ⟨rest, hh⟩

/-- Settles O18: a command writes no byte, and the outside world only in these two ways. -/
theorem onlyTheHostWritesBuf : Obligations.OnlyTheHostWritesBuf := by
  unfold Obligations.OnlyTheHostWritesBuf
  intro s t a h hne
  rcases step_cases h with ⟨w, i, u, -, -, hu, rfl⟩ | ⟨w, e, -, -, rfl⟩ | ⟨hd, hh⟩
  · obtain ⟨-, -, -, hbytes⟩ := commandFrame i s u hu
    exact absurd (hbytes a) hne
  · exact absurd rfl hne
  · rcases hostStep_bufByte hh hne with ⟨b, w, rest, hh, hlo, hhi⟩ | ⟨rest, hh⟩
    · exact .inl ⟨0x1000 + b, w, rest, hh, by omega, by omega, by omega⟩
    · exact .inr (resetsNext_of_host hd hh)

/-! ### The digest (R194) -/

/-- The accumulator file's bytes, `ACC[0]` first, each word little-endian (R25, R194). -/
theorem Words4.bytes_getD (a : Words4) {i : Nat} (hi : i < 16) :
    a.bytes.getD i 0#8 = byteOf ([a.w0, a.w1, a.w2, a.w3].getD (i / 4) 0#32) (i % 4) := by
  interval_cases i <;> rfl

theorem Variant.digestBytes_le (v : Variant) : v.digestBytes ≤ 16 := by cases v <;> decide

theorem digest_of_constructed (hv : s.status.variant = some v) :
    s.digest =
      if s.status.fin && !s.status.undef then some (s.acc.bytes.take v.digestBytes) else none := by
  simp [State.digest, hv]

/-- Settles O34, from the bytes of the accumulator file. -/
theorem digestBytes : Obligations.DigestBytes := by
  unfold Obligations.DigestBytes
  intro s v hv
  rw [digest_of_constructed hv]
  refine ⟨fun h => ?_, fun hf hu => ⟨s.acc.bytes.take v.digestBytes, by simp [hf, hu], ?_, fun i hi => ?_⟩⟩
  · rcases h with h | h <;> simp [h]
  · have hlen : s.acc.bytes.length = 16 := rfl
    rw [List.length_take, hlen, Nat.min_eq_left v.digestBytes_le]
  · have h16 : i < 16 := lt_of_lt_of_le hi v.digestBytes_le
    rw [List.getD_eq_getElem?_getD, List.getElem?_take, if_pos hi, ← List.getD_eq_getElem?_getD,
      Words4.bytes_getD _ h16]
    rfl

/-! ### What a command does, as equations (R186 to R189) -/

theorem execReset_of_none (hv : s.status.variant = none) : execReset s = .next (s.recordError .notInit) := by
  simp [execReset, hv]

theorem execReset_of_some (hv : s.status.variant = some v) : execReset s = .next (s.construct v) := by
  simp [execReset, hv]

theorem execUpdate_of_none (hv : s.status.variant = none) : execUpdate s = .next (s.recordError .notInit) := by
  simp [execUpdate, hv]

theorem execUpdate_of_outOfBounds (hv : s.status.variant = some v) (hb : s.outOfBounds = true) :
    execUpdate s = .next (s.recordError .bounds) := by
  simp [execUpdate, hv, hb]

theorem execUpdate_of_fin (hv : s.status.variant = some v) (hb : s.outOfBounds = false) (hf : s.status.fin = true) :
    execUpdate s = .next (s.misuse.addLen s.updLength.toNat) := by
  simp [execUpdate, hv, hb, hf]

theorem execUpdate_of_absorbs (hv : s.status.variant = some v) (hb : s.outOfBounds = false)
    (hf : s.status.fin = false) : execUpdate s = .next ((s.absorb v).addLen s.updLength.toNat) := by
  simp [execUpdate, hv, hb, hf]

theorem execFinal_of_none (hv : s.status.variant = none) : execFinal s = .next (s.recordError .notInit) := by
  simp [execFinal, hv]

theorem execFinal_of_fin (hv : s.status.variant = some v) (hf : s.status.fin = true) :
    execFinal s = .next s.misuse := by
  simp [execFinal, hv, hf]

theorem execFinal_of_unfinished (hv : s.status.variant = some v) (hf : s.status.fin = false) :
    execFinal s = .next (s.finalize v) := by
  simp [execFinal, hv, hf]

/-- Settles O49: the checks of every command but `INIT`, and the effect they select, read neither `CFG` nor `SEED`. -/
theorem configReadOnlyByInit : Obligations.ConfigReadOnlyByInit := by
  unfold Obligations.ConfigReadOnlyByInit
  intro i s t c seed hi h
  cases i with
  | nop => cases h; rfl
  | init => exact absurd rfl hi
  | reset =>
    rcases execReset_cases h with ⟨hv, rfl⟩ | ⟨v, hv, rfl⟩
    · exact execReset_of_none hv
    · exact execReset_of_some hv
  | update =>
    rcases execUpdate_cases h with ⟨hv, rfl⟩ | ⟨v, hv, ⟨hb, rfl⟩ | ⟨hb, hf, rfl⟩ | ⟨hb, hf, rfl⟩⟩
    · exact execUpdate_of_none hv
    · exact execUpdate_of_outOfBounds hv hb
    · exact execUpdate_of_fin hv hb hf
    · exact execUpdate_of_absorbs hv hb hf
  | final =>
    rcases execFinal_cases h with ⟨hv, rfl⟩ | ⟨v, hv, ⟨hf, rfl⟩ | ⟨hf, rfl⟩⟩
    · exact execFinal_of_none hv
    · exact execFinal_of_fin hv hf
    · exact execFinal_of_unfinished hv hf
  | clrerr => cases h; rfl

end Sys2Proof.Machine

namespace Sys2Proof.Machine

variable {i : Instr} {s t : State} {v : Variant} {w : Word32}

/-! ### Which commands write which register of the session (R24, R29, R32, R33) -/

/-- The commands that write each register of the session; and `UNDEF` as the command leaves it. -/
structure SessionWrites (i : Instr) (s t : State) : Prop where
  acc : t.acc = s.acc ∨ i ∈ [Instr.init, .reset, .update, .final]
  len : t.len = s.len ∨ i ∈ [Instr.init, .reset, .update]
  seedAct : t.seedAct = s.seedAct ∨ i = .init
  variant : t.status.variant = s.status.variant ∨ i = .init
  fin : t.status.fin = s.status.fin ∨ i ∈ [Instr.init, .reset, .final]
  undef : t.status.undef = s.status.undef ∨
    (t.status.undef = true ∧ i ∈ [Instr.update, .final] ∧ s.status.fin = true) ∨
    (t.status.undef = false ∧ i ∈ [Instr.init, .reset])

/-- What a command that leaves the session writes of it: nothing. -/
theorem SessionWrites.of_sameSession (h : SameSession s t) : SessionWrites i s t :=
  ⟨.inl h.acc, .inl h.len, .inl h.seedAct, .inl h.variant, .inl h.fin, .inl h.undef⟩

/-- Retirement writes nothing of the session (R181). -/
theorem SessionWrites.retire (h : SessionWrites i s t) : SessionWrites i s t.retire :=
  ⟨h.acc, h.len, h.seedAct, h.variant, h.fin, h.undef⟩

theorem SameSession.retire (h : SameSession s t) : SameSession s t.retire :=
  ⟨h.acc, h.len, h.seedAct, h.variant, h.fin, h.undef, h.draws⟩

/-- Recording an error leaves the session (R221). -/
theorem State.recordError_sameSession (s : State) (c : ErrCode) : SameSession s (s.recordError c) := by
  constructor <;> simp

theorem exec_sessionWrites (h : exec i s = .next t) : SessionWrites i s t := by
  refine exec_effect (P := SessionWrites i s) h ?nop ?init ?notInit ?reset ?bounds ?late ?absorb ?again ?final ?clrerr
  case nop => exact fun _ => .of_sameSession ⟨rfl, rfl, rfl, rfl, rfl, rfl, rfl⟩
  case notInit => exact fun _ _ => .of_sameSession (s.recordError_sameSession _)
  case bounds => exact fun _ _ _ _ => .of_sameSession (s.recordError_sameSession _)
  case clrerr => exact fun _ => .of_sameSession ⟨rfl, rfl, rfl, rfl, rfl, rfl, rfl⟩
  case init => rintro rfl; constructor <;> simp
  case reset => rintro v rfl -; constructor <;> simp
  case late => rintro v rfl - - hf; constructor <;> simp [State.misuse, hf]
  case absorb => rintro v rfl - - -; constructor <;> simp
  case again => rintro v rfl - hf; constructor <;> simp [State.misuse, hf]
  case final => rintro v rfl - -; constructor <;> simp

theorem completing_of_due (hd : s.due = some w) (hi : decode w = .ok i) : s.completing = some i := by
  simp [State.completing, hd, hi, Except.toOption]

/-- Of the session's registers a step writes those that the command it completes writes, or it is a hardware reset. -/
theorem step_sessionWrites (h : step s = .next t) :
    s.resetsNext = true ∧ t.status.undef = false ∨
      (∃ i, s.completing = some i ∧ SessionWrites i s t) ∨ SameSession s t := by
  rcases step_cases h with ⟨w, i, u, hd, hi, hu, rfl⟩ | ⟨w, e, -, -, rfl⟩ | ⟨hd, hh⟩
  · exact .inr (.inl ⟨i, completing_of_due hd hi, (exec_sessionWrites hu).retire⟩)
  · exact .inr (.inr (s.recordError_sameSession .illegalCmd).retire)
  · rcases hostStep_session hh with ⟨rest, hr, rfl⟩ | ⟨-, -, hs⟩
    · exact .inl ⟨resetsNext_of_host hd hr, rfl⟩
    · exact .inr (.inr hs)

/-- Settles O48, from what each command writes of the session. -/
theorem sessionWriters : Obligations.SessionWriters := by
  unfold Obligations.SessionWriters
  intro s t h
  rcases step_sessionWrites h with ⟨hr, hu⟩ | ⟨i, hc, hw⟩ | hs
  · simp [hr, hu]
  · have hmem : ∀ l : List Instr, i ∈ l → s.completing ∈ l.map some := fun l hi => by simpa [hc] using hi
    refine ⟨fun hne => .inl (hmem _ (hw.acc.resolve_left hne)), fun hne => .inl (hmem _ (hw.len.resolve_left hne)),
      fun hne => .inl ?_, fun hne => .inl ?_, fun hne => .inl (hmem _ (hw.fin.resolve_left hne)),
      fun h0 h1 => ?_, fun h1 h0 => ?_⟩
    · rw [hc, hw.seedAct.resolve_left hne]
    · rw [hc, hw.variant.resolve_left hne]
    · rcases hw.undef with hu | ⟨-, hi, hf⟩ | ⟨hu, -⟩
      · simp [h0, h1] at hu
      · exact ⟨hmem _ hi, hf⟩
      · simp [h1] at hu
    · rcases hw.undef with hu | ⟨hu, -, -⟩ | ⟨-, hi⟩
      · simp [h0, h1] at hu
      · simp [h0] at hu
      · exact .inl (hmem _ hi)
  · obtain ⟨hacc, hlen, hseed, hvariant, hfin, hundef, -⟩ := hs
    refine ⟨absurd hacc, absurd hlen, absurd hseed, absurd hvariant, absurd hfin, fun h0 h1 => ?_, fun h1 h0 => ?_⟩
    · simp [h0, h1] at hundef
    · simp [h0, h1] at hundef

/-! ### What `UPDATE` and `FINAL` leave (R37, R188, R189) -/

/-- What every effect of `UPDATE` and `FINAL` leaves, an error among them. -/
structure AbsorptionFrame (s t : State) : Prop where
  variant : t.status.variant = s.status.variant
  seedAct : t.seedAct = s.seedAct
  errCmd : t.status.errCmd = s.status.errCmd
  h32Upper : s.status.variant = some .h32 → t.acc.w1 = s.acc.w1 ∧ t.acc.w2 = s.acc.w2 ∧ t.acc.w3 = s.acc.w3

theorem State.misuse_absorptionFrame (s : State) : AbsorptionFrame s s.misuse :=
  ⟨rfl, rfl, rfl, fun h => by simp [State.misuse, State.poisonedAcc, h]⟩

theorem execUpdate_frame (h : execUpdate s = .next t) : AbsorptionFrame s t := by
  rcases execUpdate_cases h with ⟨-, rfl⟩ | ⟨v, hv, ⟨-, rfl⟩ | ⟨-, -, rfl⟩ | ⟨-, -, rfl⟩⟩
  · exact ⟨rfl, rfl, rfl, fun _ => ⟨rfl, rfl, rfl⟩⟩
  · exact ⟨rfl, rfl, rfl, fun _ => ⟨rfl, rfl, rfl⟩⟩
  · obtain ⟨hvariant, hseed, herr, hupper⟩ := s.misuse_absorptionFrame
    exact ⟨hvariant, hseed, herr, hupper⟩
  · refine ⟨rfl, rfl, rfl, fun h32 => ?_⟩
    obtain rfl : v = .h32 := by simpa [hv] using h32
    simp

theorem execFinal_frame (h : execFinal s = .next t) : AbsorptionFrame s t := by
  rcases execFinal_cases h with ⟨-, rfl⟩ | ⟨v, hv, ⟨-, rfl⟩ | ⟨-, rfl⟩⟩
  · exact ⟨rfl, rfl, rfl, fun _ => ⟨rfl, rfl, rfl⟩⟩
  · exact s.misuse_absorptionFrame
  · refine ⟨rfl, rfl, rfl, fun h32 => ?_⟩
    obtain rfl : v = .h32 := by simpa [hv] using h32
    simp

/-- `FINAL` raises no `BOUNDS` (R189). -/
theorem execFinal_errBounds (h : execFinal s = .next t) : t.status.errBounds = s.status.errBounds := by
  rcases execFinal_cases h with ⟨-, rfl⟩ | ⟨v, -, ⟨-, rfl⟩ | ⟨-, rfl⟩⟩ <;> rfl

/-- An `UPDATE` that is not aborted, in a session that is not finalized, absorbs (R188). -/
theorem execUpdate_accepted (h : execUpdate s = .next t) (hab : aborts .update s = false)
    (hf : s.status.fin = false) : ∃ v, t = (s.absorb v).addLen s.updLength.toNat := by
  rcases execUpdate_cases h with ⟨hv, -⟩ | ⟨v, hv, ⟨hb, -⟩ | ⟨-, hfin, -⟩ | ⟨-, -, rfl⟩⟩
  · simp [aborts, State.active, hv] at hab
  · simp [aborts, hb] at hab
  · simp [hf] at hfin
  · exact ⟨v, rfl⟩

/-- A `FINAL` that is not aborted, in a session that is not finalized, folds down (R189). -/
theorem execFinal_accepted (h : execFinal s = .next t) (hab : aborts .final s = false)
    (hf : s.status.fin = false) : ∃ v, t = s.finalize v := by
  rcases execFinal_cases h with ⟨hv, -⟩ | ⟨v, hv, ⟨hfin, -⟩ | ⟨-, rfl⟩⟩
  · simp [aborts, State.active, hv] at hab
  · simp [hf] at hfin
  · exact ⟨v, rfl⟩

/-- Settles O53, from the frame that the two commands share and the fields that each alone keeps. -/
theorem updateFinalFrame : Obligations.UpdateFinalFrame := by
  unfold Obligations.UpdateFinalFrame
  rintro i s t (rfl | rfl) h
  · obtain ⟨hvariant, hseed, herr, hupper⟩ := execUpdate_frame h
    refine ⟨hvariant, hseed, herr, hupper, fun hab hf => ?_,
      fun _ => (exec_sessionWrites h).fin.resolve_right (by decide), by simp⟩
    obtain ⟨v, rfl⟩ := execUpdate_accepted h hab hf
    exact ⟨⟨rfl, rfl, rfl, rfl, rfl⟩, rfl, rfl⟩
  · obtain ⟨hvariant, hseed, herr, hupper⟩ := execFinal_frame h
    refine ⟨hvariant, hseed, herr, hupper, fun hab hf => ?_, by simp,
      fun _ => ⟨(exec_sessionWrites h).len.resolve_right (by decide), execFinal_errBounds h⟩⟩
    obtain ⟨v, rfl⟩ := execFinal_accepted h hab hf
    exact ⟨⟨rfl, rfl, rfl, rfl, rfl⟩, rfl, rfl⟩

end Sys2Proof.Machine

namespace Sys2Proof.Machine

variable {s t : State} {p q : Platform} {k : Nat}

/-! ### The platform (R41, R230) -/

/-- Everything one step of the platform can do. -/
theorem stepInst_cases (h : p.stepInst k = .next q) :
    (p.insts[k]? = none ∧ q = p) ∨
      ∃ s t, p.insts[k]? = some s ∧ step s = .next t ∧ q = { insts := p.insts.set k t } := by
  unfold Platform.stepInst at h
  split at h
  · rename_i hk
    cases h
    exact .inl ⟨hk, rfl⟩
  · rename_i s hk
    split at h <;> rename_i hs <;> cases h
    exact .inr ⟨s, _, hk, hs, rfl⟩

theorem stepInst_of_none (hk : p.insts[k]? = none) : p.stepInst k = .next p := by
  simp [Platform.stepInst, hk]

theorem stepInst_of_step (hk : p.insts[k]? = some s) (hs : step s = .next t) :
    p.stepInst k = .next { insts := p.insts.set k t } := by
  simp [Platform.stepInst, hk, hs]

/-- A list position that holds a state holds the state that replaces it. -/
theorem getElem?_set_of_some {x y : State} (hk : p.insts[k]? = some x) : (p.insts.set k y)[k]? = some y := by
  obtain ⟨hlt, -⟩ := List.getElem?_eq_some_iff.mp hk
  exact List.getElem?_set_self hlt

/-- A step moves no state but the one it names (R41). -/
theorem stepInst_getElem?_ne (h : p.stepInst k = .next q) {j : Nat} (hj : j ≠ k) : q.insts[j]? = p.insts[j]? := by
  rcases stepInst_cases h with ⟨-, rfl⟩ | ⟨s, t, -, -, rfl⟩
  · rfl
  · exact List.getElem?_set_ne hj.symm

/-- Settles O58, from the cases of a step of the platform. -/
theorem instancesAreIsolated : Obligations.InstancesAreIsolated := by
  unfold Obligations.InstancesAreIsolated
  refine ⟨fun p q k h => ⟨?_, fun j hj => stepInst_getElem?_ne h hj, fun s hk => ?_⟩, fun p q r j k hne hj hk => ?_⟩
  · rcases stepInst_cases h with ⟨-, rfl⟩ | ⟨s, t, -, -, rfl⟩
    · rfl
    · exact List.length_set
  · rcases stepInst_cases h with ⟨hnone, -⟩ | ⟨s', t, hk', hs, rfl⟩
    · simp [hk] at hnone
    · obtain rfl : s = s' := by simpa [hk] using hk'
      exact ⟨t, hs, getElem?_set_of_some hk⟩
  · rcases stepInst_cases hj with ⟨hj, rfl⟩ | ⟨s, t, hjs, hs, rfl⟩
    · exact ⟨r, hk, stepInst_of_none (by rw [stepInst_getElem?_ne hk hne, hj])⟩
    · have hkeep : (p.insts.set j t)[k]? = p.insts[k]? := List.getElem?_set_ne hne
      rcases stepInst_cases hk with ⟨hnone, rfl⟩ | ⟨s', t', hks, hs', rfl⟩
      · exact ⟨p, stepInst_of_none (hkeep ▸ hnone), stepInst_of_step hjs hs⟩
      · refine ⟨_, stepInst_of_step (hkeep ▸ hks) hs', ?_⟩
        rw [stepInst_of_step ((List.getElem?_set_ne hne.symm).trans hjs) hs, List.set_comm t' t hne.symm]

/-! ### The bus (R52, R57) -/

/-- The slots rise, so no two windows share one (R52). -/
theorem baseSlot_strictMono : StrictMono Config.baseSlot :=
  strictMono_nat_of_lt_succ fun k => by simp only [Config.baseSlot]; omega

/-- An address within 2^21 bytes of a `BLOCK_BASE` lies in that slot alone (R52, R57). -/
theorem inSlot_iff {j k off : Nat} (hoff : off < 2 ^ 21) : inSlot j (Config.blockBase k + off) = true ↔ j = k := by
  have hslot : (Config.blockBase k + off) / Config.baseAlign = Config.baseSlot k := by
    rw [Config.blockBase, Nat.mul_add_div (by decide), Nat.div_eq_of_lt (b := Config.baseAlign) hoff, Nat.add_zero]
  rw [inSlot, hslot, beq_iff_eq, baseSlot_strictMono.injective.eq_iff, eq_comm]

/-- A bus address in a slot is routed there, at its offset from `BLOCK_BASE` (R41, R57). -/
theorem route_blockBase_add {off : Nat} (hk : p.insts[k]? = some s) (hoff : off < 2 ^ 21) :
    p.route (Config.blockBase k + off) = some (k, off) := by
  obtain ⟨hlt, -⟩ := List.getElem?_eq_some_iff.mp hk
  have hfind : (List.range p.insts.length).find? (fun j => inSlot j (Config.blockBase k + off)) = some k := by
    refine List.find?_range_eq_some.mpr ⟨(inSlot_iff hoff).mpr rfl, List.mem_range.mpr hlt, fun j hj => ?_⟩
    have hout : ¬inSlot j (Config.blockBase k + off) = true := fun h => hj.ne ((inSlot_iff hoff).mp h)
    simpa using hout
  simp [Platform.route, hfind]

/-- A submitted operation is appended to the host's list it is meant for, and to no other (R41). -/
theorem submit_spec (hk : p.insts[k]? = some s) (op : HostOp) :
    (p.submit k op).insts.length = p.insts.length ∧
      (p.submit k op).insts[k]? = some { s with host := s.host ++ [op] } ∧
      ∀ j, j ≠ k → (p.submit k op).insts[j]? = p.insts[j]? := by
  have hsubmit : p.submit k op = { insts := p.insts.set k { s with host := s.host ++ [op] } } := by
    simp [Platform.submit, hk]
  rw [hsubmit]
  exact ⟨List.length_set, getElem?_set_of_some hk, fun j hj => List.getElem?_set_ne hj.symm⟩

/-- Settles O60, from the route of a bus address and what a submitted operation does. -/
theorem busRouting : Obligations.BusRouting := by
  unfold Obligations.BusRouting
  intro p k off s hk hoff
  have hroute := route_blockBase_add hk hoff
  refine ⟨hroute, fun width => ?_, fun width v => ?_⟩
  · rw [Platform.busRead, hroute]
    exact submit_spec hk _
  · rw [Platform.busWrite, hroute]
    exact submit_spec hk _

end Sys2Proof.Machine

namespace Sys2Proof.Machine

variable {s t : State} {rest : List HostOp}

/-! ### The word of `STATUS` (R29, R74) -/

theorem State.getLsbD_statusWord (s : State) {i : Nat} (hi : i < 32) :
    s.statusWord.getLsbD i =
      (decide (i = 0) && s.busy || decide (i = 1) && s.active || decide (i = 2) && s.status.fin ||
        decide (i = 3) && s.status.errBounds || decide (i = 4) && s.status.errSeq ||
        decide (i = 5) && s.status.errCmd || decide (i = 6) && s.status.errNoInit ||
        decide (i = 7) && s.status.undef || decide (8 ≤ i) && (errCodeNum s.status.ecode).getLsbD (i - 8) ||
        decide (12 ≤ i) && (variantCode s.status.variant).getLsbD (i - 12)) := by
  simp only [State.statusWord, BitVec.getLsbD_or, getLsbD_field_bit _ _ _ hi, getLsbD_field _ _ _ hi]

/-- Bit 0 of `STATUS` is `BUSY` (R29). -/
theorem State.statusWord_busy (s : State) : s.statusWord.getLsbD 0 = s.busy := by
  rw [s.getLsbD_statusWord (by decide)]
  simp

theorem State.statusWord_ecode (s : State) : s.statusWord.extractLsb' 8 4 = errCodeNum s.status.ecode := by
  apply BitVec.eq_of_getLsbD_eq
  intro i hi
  have hbelow : ∀ j, j < 8 → 8 + i ≠ j := by omega
  have hvariant : ¬12 ≤ 8 + i := by omega
  rw [BitVec.getLsbD_extractLsb', s.getLsbD_statusWord (by omega)]
  simp [hi, hbelow, hvariant]

theorem State.statusWord_variant (s : State) : s.statusWord.extractLsb' 12 2 = variantCode s.status.variant := by
  apply BitVec.eq_of_getLsbD_eq
  intro i hi
  have hbelow : ∀ j, j < 8 → 12 + i ≠ j := by omega
  have hecode : (errCodeNum s.status.ecode).getLsbD (12 + i - 8) = false := BitVec.getLsbD_of_ge _ _ (by omega)
  rw [BitVec.getLsbD_extractLsb', s.getLsbD_statusWord (by omega)]
  simp [hi, hbelow, hecode]

/-- The reserved bits of `STATUS` read 0 (R29, R39). -/
theorem State.statusWord_reserved (s : State) : s.statusWord.extractLsb' 14 18 = 0#18 := by
  apply BitVec.eq_of_getLsbD_eq
  intro i hi
  have hbelow : ∀ j, j < 8 → 14 + i ≠ j := by omega
  have hecode : (errCodeNum s.status.ecode).getLsbD (14 + i - 8) = false := BitVec.getLsbD_of_ge _ _ (by omega)
  have hvariant : (variantCode s.status.variant).getLsbD (14 + i - 12) = false := BitVec.getLsbD_of_ge _ _ (by omega)
  rw [BitVec.getLsbD_extractLsb', s.getLsbD_statusWord (by omega)]
  simp [hbelow, hecode, hvariant]

/-- Settles O15, from the fields of `STATUS` bit by bit. -/
theorem statusLayout : Obligations.StatusLayout := by
  unfold Obligations.StatusLayout
  refine ⟨fun s => ⟨s.statusWord_busy, ?_, ?_, ?_, ?_, ?_, ?_, ?_, s.statusWord_ecode, s.statusWord_variant,
    s.statusWord_reserved⟩, ⟨rfl, rfl, rfl, rfl, rfl⟩, rfl, rfl, rfl, rfl⟩
  all_goals
    rw [s.getLsbD_statusWord (by decide)]
    simp [State.active]

/-! ### The word of `CFG` (R26) -/

theorem Cfg.toWord_width (c : Cfg) : c.toWord.extractLsb' 0 1 = c.width.code := by
  obtain ⟨width, layout⟩ := c
  cases width <;> cases layout <;> decide

theorem Cfg.toWord_layout (c : Cfg) : c.toWord.extractLsb' 1 2 = c.layout.code := by
  obtain ⟨width, layout⟩ := c
  cases width <;> cases layout <;> decide

/-- The reserved bits of `CFG` read 0 (R26, R39). -/
theorem Cfg.toWord_reserved (c : Cfg) : c.toWord.extractLsb' 3 29 = 0#29 := by
  obtain ⟨width, layout⟩ := c
  cases width <;> cases layout <;> decide

/-- The lowest bit of a word, as a field of one bit. -/
theorem extractLsb'_zero_one (v : Word32) : v.extractLsb' 0 1 = bit (v.getLsbD 0) := by
  apply BitVec.eq_of_getLsbD_eq
  intro i hi
  obtain rfl : i = 0 := by omega
  simp [bit]

/-- `WIDTH` takes bit 0 (R26). -/
theorem Cfg.write_width (c : Cfg) (v : Word32) : (c.write v).width = if v.getLsbD 0 then .w128 else .w32 := by
  simp only [Cfg.write, extractLsb'_zero_one]
  cases v.getLsbD 0 <;> rfl

/-- The stored width stands for the bit written (R26). -/
theorem Cfg.write_width_code (c : Cfg) (v : Word32) : (c.write v).width.code = v.extractLsb' 0 1 := by
  rw [Cfg.write_width, extractLsb'_zero_one]
  cases v.getLsbD 0 <;> rfl

/-- A legal layout is stored as its code (R26). -/
theorem Layout.write_code (l : Layout) : ∀ v : BitVec 2, v ≠ 3#2 → (l.write v).code = v := by
  cases l <;> decide

/-- Settles O14, from the fields of the word read and what a write stores in each. -/
theorem cfgWriteRule : Obligations.CfgWriteRule := by
  unfold Obligations.CfgWriteRule
  intro c v
  have hlayout : (c.write v).layout = c.layout.write (v.extractLsb' 1 2) := rfl
  refine ⟨(c.write v).toWord_reserved, ?_, fun h => ?_, fun h => ?_, c.write_width v, fun h => ?_, fun h => ?_,
    fun h => ?_, fun h => ?_⟩
  · rw [Cfg.toWord_width, Cfg.write_width_code]
  · rw [Cfg.toWord_layout, hlayout, Layout.write_code _ _ h]
  · rw [Cfg.toWord_layout, Cfg.toWord_layout, hlayout, h]; rfl
  all_goals rw [hlayout, h]; rfl

/-! ### The 64-bit views (R25) -/

/-- A 64-bit word is its two halves. -/
theorem halves_append (x : Word64) : x.extractLsb' 32 32 ++ x.extractLsb' 0 32 = x :=
  (BitVec.extractLsb'_append_extractLsb'_eq_extractLsb' rfl).trans BitVec.extractLsb'_eq_self

theorem extractLsb'_low_append (hi lo : Word32) : (hi ++ lo : Word64).extractLsb' 0 32 = lo :=
  BitVec.extractLsb'_append_eq_right

theorem extractLsb'_high_append (hi lo : Word32) : (hi ++ lo : Word64).extractLsb' 32 32 = hi :=
  BitVec.extractLsb'_append_eq_left

/-- Settles O31, from the halves of a 64-bit word. -/
theorem pairViewRoundTrip : Obligations.PairViewRoundTrip := by
  unfold Obligations.PairViewRoundTrip
  refine ⟨fun _ => rfl, fun p => ?_, fun a => ?_⟩
  · simp [Words4.toPair, Words2.toWords, halves_append]
  · simp [Words4.toPair, Words2.toWords, extractLsb'_low_append, extractLsb'_high_append]

/-! ### Host accesses to a register (R38, R58) -/

theorem Reg.addr_aligned (r : Reg) : r.addr % 4 = 0 := by cases r <;> rfl

theorem step_readReg {r : Reg} (hm : s.mustPoll = false) (hh : s.host = .read 32 r.addr :: rest) :
    step s = .next ((({ s with host := rest } : State).log (.read r.addr (s.readReg r))).observed (.reg r)) :=
  step_read hm r.addr_aligned (windowTarget_reg _ r) hh

theorem step_writeReg {r : Reg} {v : Word32} (hm : s.mustPoll = false) (hh : s.host = .write 32 r.addr v :: rest) :
    step s = .next ((({ s with host := rest } : State).log (.write r.addr v)).writeReg r v) :=
  step_write hm r.addr_aligned (windowTarget_reg _ r) hh

/-- `STATUS` may be read even where the host must poll (R254). -/
theorem step_readStatus (hd : s.due = none) (hh : s.host = .read 32 Reg.status.addr :: rest) :
    step s = .next ((({ s with host := rest } : State).log (.read Reg.status.addr s.statusWord)).observed
      (.reg .status)) := by
  have haccess : ({ s with host := rest } : State).readAccess 32 Reg.status.addr = .ok (.reg .status) := by
    simp [State.readAccess, State.access, Reg.addr_aligned]
  rw [step_of_due_none hd, hostStep_cons hh]
  simp only [State.perform, State.hostRead, haccess]
  rfl

/-- What a read leaves: everything but the host's list, its record and its obligation to poll (R58). -/
theorem read_frame {rec : BusRecord} {tgt : Target}
    (ht : t = (({ s with host := rest } : State).log rec).observed tgt) :
    t.trace = rec :: s.trace ∧ t.host = rest ∧ t.pending = s.pending ∧ SameInputs s t ∧ SameSession s t ∧
      SameErrors s t ∧ t.buf = s.buf ∧ SameBytes s t := by
  subst ht
  exact ⟨by simp, by simp, by simp, by constructor <;> simp, by constructor <;> simp, by constructor <;> simp,
    by simp, sameBytes_of_buf (by simp) (by simp) (by simp)⟩

/-- Settles O9, from the frame of a read. -/
theorem statusReadAlways : Obligations.StatusReadAlways := by
  unfold Obligations.StatusReadAlways
  intro s rest hd hh
  obtain ⟨htrace, hhost, hframe⟩ := read_frame rfl
  exact ⟨_, step_readStatus hd hh, htrace, s.statusWord_busy, hhost, hframe⟩

/-- Settles O16, from the frame of a read. -/
theorem hostReadsRegisters : Obligations.HostReadsRegisters := by
  unfold Obligations.HostReadsRegisters
  exact ⟨fun s r rest hm hh => ⟨_, step_readReg hm hh, read_frame rfl⟩,
    fun s => ⟨rfl, rfl, rfl, rfl, rfl, rfl, rfl, rfl, rfl, rfl, rfl, rfl, rfl, rfl⟩⟩

/-- Settles O12: the write of a read-only register leaves the state. -/
theorem readOnlyWritesIgnored : Obligations.ReadOnlyWritesIgnored := by
  unfold Obligations.ReadOnlyWritesIgnored
  intro s r v rest hm hr hh
  rw [step_writeReg hm hh]
  cases r
  case cfg | seed | cmd | offset | length => simp at hr
  all_goals rfl

/-- A write to `SEED`, `OFFSET` or `LENGTH` is what is read (R27, R30, R31). -/
theorem State.readReg_writeReg_same (s : State) {r : Reg} (hr : r ∈ [Reg.seed, .offset, .length]) (v : Word32) :
    (s.writeReg r v).readReg r = v := by
  simp only [List.mem_cons, List.not_mem_nil, or_false] at hr
  rcases hr with rfl | rfl | rfl <;> rfl

/-- A write to a register that the host writes is no write to another (R38): each reads its own field, and `CMD`
reads 0. -/
theorem State.readReg_writeReg_of_ne (s : State) {r r' : Reg} (hr : r ∈ [Reg.cfg, .seed, .offset, .length])
    (hne : r' ≠ r) (v : Word32) : (s.writeReg r v).readReg r' = s.readReg r' := by
  simp only [List.mem_cons, List.not_mem_nil, or_false] at hr
  rcases hr with rfl | rfl | rfl | rfl <;> cases r' <;> trivial

/-- Only a write to `CMD` starts a command (R180). -/
theorem State.writeReg_pending (s : State) {r : Reg} (hr : r ≠ .cmd) (v : Word32) :
    (s.writeReg r v).pending = s.pending := by
  cases r
  case cmd => exact absurd rfl hr
  all_goals rfl

/-- No register shows the host's list or its record. -/
theorem State.readReg_log (s : State) (rest : List HostOp) (rec : BusRecord) (r : Reg) :
    (({ s with host := rest } : State).log rec).readReg r = s.readReg r := by cases r <;> rfl

/-- Settles O13, from what a register reads after a write to it and to another. -/
theorem readWriteRegisters : Obligations.ReadWriteRegisters := by
  unfold Obligations.ReadWriteRegisters
  intro s r v rest hm hr hh
  refine ⟨_, step_writeReg hm hh, by simp, fun hcfg => ?_, ?_, fun r' hne => ?_, ?_, by constructor <;> simp,
    by constructor <;> simp, sameBytes_of_buf (by simp) (by simp) (by simp)⟩
  · exact State.readReg_writeReg_same _ ((List.mem_cons.mp hr).resolve_left hcfg) v
  · rintro rfl
    rfl
  · rw [State.readReg_writeReg_of_ne _ hr hne, State.readReg_log]
  · refine State.writeReg_pending _ ?_ v
    rintro rfl
    simp at hr

/-- Settles O24: the reset value of each register. -/
theorem resetState : Obligations.ResetState := by
  unfold Obligations.ResetState
  exact ⟨rfl, rfl, rfl, rfl, rfl, rfl, rfl, rfl, rfl, rfl, rfl, rfl, rfl, rfl, rfl, fun _ => rfl⟩

end Sys2Proof.Machine

namespace Sys2Proof.Machine

variable {s t : State} {rest : List HostOp}

/-! ### While a command is pending (R59, R63, R254) -/

/-- While a command is pending, the outside world has nothing to do, or it drives hardware reset, or it reads: no write
is permitted (R59, R254). -/
theorem hostStep_busy (hb : s.busy = true) (h : s.hostStep = .next t) :
    s.host = [] ∨ (∃ rest, s.host = .hwReset :: rest) ∨
      ∃ rest rec tgt, t = (({ s with host := rest } : State).log rec).observed tgt := by
  rcases hostStep_cases h with ⟨hh, -⟩ | ⟨_, off, rest, tgt, -, -, rfl⟩ | ⟨_, _, _, _, _, -, ha, -⟩ |
    ⟨_, -, -, rfl⟩ | ⟨_, -, hidle, -⟩ | ⟨rest, hh, -⟩
  · exact .inl hh
  · exact .inr (.inr ⟨rest, _, tgt, rfl⟩)
  · obtain ⟨-, -, -, hpoll⟩ := access_ok ha
    simp [State.mustPoll, hb] at hpoll
  · exact .inr (.inr ⟨s.host, _, .reg .status, rfl⟩)
  · simp [hb] at hidle
  · exact .inr (.inl ⟨rest, hh⟩)

/-- A pending command that is not due leaves the outside world something to do (R181). -/
theorem host_ne_nil_of_busy (hb : s.busy = true) (hd : s.due = none) : s.host ≠ [] := by
  intro hh
  have hp : s.pending = none := by simpa [State.due, hh] using hd
  simp [State.busy, hp] at hb

/-- Settles O19, from the frame of a read: nothing else is permitted while the command is pending. -/
theorem busyFreezesOperands : Obligations.BusyFreezesOperands := by
  unfold Obligations.BusyFreezesOperands
  intro s t hb hd hr h
  rw [step_of_due_none hd] at h
  rcases hostStep_busy hb h with hh | ⟨rest, hh⟩ | ⟨rest, rec, tgt, ht⟩
  · exact absurd hh (host_ne_nil_of_busy hb hd)
  · simp [resetsNext_of_host hd hh] at hr
  · obtain ⟨-, -, hpending, hinputs, hsession, herrors, hbuf, hbytes⟩ := read_frame ht
    exact ⟨hpending, hinputs, hsession, herrors, hbuf, hbytes, by simp [ht]⟩

/-! ### `LOADBUF` (R54, R76) -/

theorem SameInputs.trans {u : State} (h : SameInputs s t) (h' : SameInputs t u) : SameInputs s u :=
  ⟨h'.cfg.trans h.cfg, h'.seed.trans h.seed, h'.offset.trans h.offset, h'.length.trans h.length⟩

theorem SameSession.trans {u : State} (h : SameSession s t) (h' : SameSession t u) : SameSession s u :=
  ⟨h'.acc.trans h.acc, h'.len.trans h.len, h'.seedAct.trans h.seedAct, h'.variant.trans h.variant,
    h'.fin.trans h.fin, h'.undef.trans h.undef, h'.draws.trans h.draws⟩

/-- A permitted write of a buffer word: the word's bytes, and what the write leaves as it was (R54). -/
theorem step_writeBuf_frame {a : Nat} {v : Word32} (hm : s.mustPoll = false) (ha : a % 4 = 0)
    (hb : a + 4 ≤ s.params.bufBytes) (hh : s.host = .write 32 (0x1000 + a) v :: rest) :
    ∃ t, step s = .next t ∧ t.host = rest ∧ t.mustPoll = false ∧ t.params = s.params ∧
      (∀ b, t.bufByte b = if a ≤ b ∧ b < a + 4 then byteOf v (b - a) else s.bufByte b) ∧ SameInputs s t ∧
      SameSession s t :=
  ⟨_, step_writeBuf hm ha hb hh, rfl, hm, rfl, fun b => State.bufByte_writeTarget_buf _ a b v, ⟨rfl, rfl, rfl, rfl⟩,
    ⟨rfl, rfl, rfl, rfl, rfl, rfl, rfl⟩⟩

/-- The writes of the buffer words `k, ..., k + m - 1`, counted from address `a`, leave those words' bytes in `BUF`
and every other byte as it was (R54). -/
theorem run_writeWords (word : Nat → Word32) {a : Nat} (ha : a % 4 = 0) (m k : Nat) (s : State)
    (hm : s.mustPoll = false) (hbound : a + 4 * (k + m) ≤ s.params.bufBytes)
    (hh : s.host = (List.range' k m).flatMap (fun j => asmWrb (a + 4 * j) (word j)) ++ rest) :
    ∃ t, Host.Core.run core m s = .next t ∧ t.host = rest ∧
      (∀ b, t.bufByte b = if a + 4 * k ≤ b ∧ b < a + 4 * (k + m) then byteOf (word ((b - a) / 4)) ((b - a) % 4)
        else s.bufByte b) ∧ SameInputs s t ∧ SameSession s t := by
  induction m generalizing k s with
  | zero =>
    exact ⟨s, rfl, by simpa using hh, fun b => by rw [if_neg (by omega)], ⟨rfl, rfl, rfl, rfl⟩,
      ⟨rfl, rfl, rfl, rfl, rfl, rfl, rfl⟩⟩
  | succ m ih =>
    rw [List.range'_succ, List.flatMap_cons, List.append_assoc] at hh
    obtain ⟨u, hstep, huhost, hum, hup, hubytes, huinputs, husession⟩ :=
      step_writeBuf_frame hm (a := a + 4 * k) (by omega) (by omega) hh
    obtain ⟨t, hrun, hhost, hbytes, hinputs, hsession⟩ := ih (k + 1) u hum (by rw [hup]; omega) huhost
    refine ⟨t, (run_succ_of_step hstep).trans hrun, hhost, fun b => ?_, huinputs.trans hinputs,
      husession.trans hsession⟩
    rw [hbytes, hubytes]
    by_cases hfirst : a + 4 * k ≤ b ∧ b < a + 4 * k + 4
    · have hword : (b - a) / 4 = k := by omega
      have hlane : (b - a) % 4 = b - (a + 4 * k) := by omega
      rw [if_neg (by omega), if_pos hfirst, if_pos (by omega), hword, hlane]
    · have hlater : (a + 4 * (k + 1) ≤ b ∧ b < a + 4 * (k + 1 + m)) ↔
          (a + 4 * k ≤ b ∧ b < a + 4 * (k + (m + 1))) := by omega
      rw [if_neg hfirst, if_congr hlater rfl rfl]

/-- The words of `LOADBUF` hold the string's bytes in order (R76). -/
theorem byteOf_padWord (bytes : List Byte) (i : Nat) : byteOf (padWord bytes (i / 4)) (i % 4) = bytes.getD i 0#8 := by
  rw [padWord, byteOf_memRead _ _ _ (Nat.mod_lt i (by decide)), Nat.div_add_mod]

/-- Settles O21, by induction on the string's words. -/
theorem loadbufLoads : Obligations.LoadbufLoads := by
  unfold Obligations.LoadbufLoads
  intro s a bytes rest hm ha hbound hh
  rw [asmLoadbuf, List.range_eq_range'] at hh
  obtain ⟨t, hrun, hhost, hbytes, hinputs, hsession⟩ :=
    run_writeWords (padWord bytes) ha _ 0 s hm (by rwa [Nat.zero_add]) hh
  refine ⟨t, hrun, hhost, fun i hi => ?_, hinputs, hsession⟩
  rw [hbytes, if_pos (by omega), Nat.add_sub_cancel_left, byteOf_padWord]

/-! ### Absorption block by block, then the tail (R127, R147, R167) -/

section Absorption

variable (rd : Nat → Byte) (a nb : Nat) {r : Nat}

theorem absorb32_blocks (h : Word32) : absorb32 rd h a (4 * nb) = blocks32 rd h a nb := by
  simp [absorb32]

theorem absorb32_tail (h : Word32) (h1 : 1 ≤ r) (h3 : r ≤ 3) :
    absorb32 rd h a (4 * nb + r) = tail32 (blocks32 rd h a nb) (tailWord32 rd (a + 4 * nb) r) := by
  have hblocks : (4 * nb + r) / 4 = nb := by omega
  have hrest : (4 * nb + r) % 4 = r := by omega
  simp only [absorb32, hblocks, hrest]
  rw [if_neg (by omega)]

theorem absorb86_blocks (h : Words4) : absorb86 rd h a (16 * nb) = blocks86 rd h a nb := by
  simp [absorb86]

theorem absorb86_tail (h : Words4) (h1 : 1 ≤ r) (h15 : r ≤ 15) :
    absorb86 rd h a (16 * nb + r) = tail86 (blocks86 rd h a nb) (tailWords86 rd (a + 16 * nb) r) r := by
  have hblocks : (16 * nb + r) / 16 = nb := by omega
  have hrest : (16 * nb + r) % 16 = r := by omega
  simp only [absorb86, hblocks, hrest]
  rw [if_neg (by omega)]

theorem absorb64_blocks (h : Words2) : absorb64 rd h a (16 * nb) = blocks64 rd h a nb := by
  simp [absorb64]

theorem absorb64_tail (h : Words2) (h1 : 1 ≤ r) (h15 : r ≤ 15) :
    absorb64 rd h a (16 * nb + r) = tail64 (blocks64 rd h a nb) (tailWords64 rd (a + 16 * nb) r) r := by
  have hblocks : (16 * nb + r) / 16 = nb := by omega
  have hrest : (16 * nb + r) % 16 = r := by omega
  simp only [absorb64, hblocks, hrest]
  rw [if_neg (by omega)]

end Absorption

/-- Settles O32, from what the blocks and the tail of each engine absorb. -/
theorem absorbDependsOnBytes : Obligations.AbsorbDependsOnBytes := by
  unfold Obligations.AbsorbDependsOnBytes
  refine ⟨fun rd acc a n => ⟨rfl, rfl, rfl⟩, fun rd h a n hn => ?_, fun rd h a n hn => ?_, fun rd h a n hn => ?_,
    fun v rd rd' acc a a' n h => absorbAcc_congr v acc h⟩
  · obtain ⟨nb, rfl⟩ := Nat.dvd_of_mod_eq_zero hn
    refine ⟨absorb32_blocks rd a 0 h, ?_, fun r h1 h3 => ?_⟩
    · rw [← Nat.mul_succ, absorb32_blocks, absorb32_blocks, blocks32_succ]
    · rw [absorb32_tail rd a nb h h1 h3, absorb32_blocks]
  · obtain ⟨nb, rfl⟩ := Nat.dvd_of_mod_eq_zero hn
    refine ⟨absorb86_blocks rd a 0 h, ?_, fun r h1 h15 => ?_⟩
    · rw [← Nat.mul_succ, absorb86_blocks, absorb86_blocks, blocks86_succ]
    · rw [absorb86_tail rd a nb h h1 h15, absorb86_blocks]
  · obtain ⟨nb, rfl⟩ := Nat.dvd_of_mod_eq_zero hn
    refine ⟨absorb64_blocks rd a 0 h, ?_, fun r h1 h15 => ?_⟩
    · rw [← Nat.mul_succ, absorb64_blocks, absorb64_blocks, blocks64_succ]
    · rw [absorb64_tail rd a nb h h1 h15, absorb64_blocks]

/-! ### Windows (R52) -/

/-- A window lies in the 2^21-byte slot at its `BLOCK_BASE`, for every legal `BUF_BYTES` (R6, R52). -/
theorem exists_offset_of_inWindow {n k addr : Nat} (hn : bufBytesWf n = true) (h : inWindow n k addr = true) :
    ∃ off, off < 2 ^ 21 ∧ addr = Config.blockBase k + off := by
  have hspan : windowSpan n = 0x1000 + n := rfl
  simp only [inWindow, Bool.and_eq_true, decide_eq_true_eq] at h
  simp only [bufBytesWf, Bool.and_eq_true, decide_eq_true_eq] at hn
  obtain ⟨hlo, hhi⟩ := h
  obtain ⟨-, hmax⟩ := hn
  exact ⟨addr - Config.blockBase k, by omega, by omega⟩

/-- Settles O59: each window lies in a slot of its own. -/
theorem windowsDisjoint : Obligations.WindowsDisjoint := by
  unfold Obligations.WindowsDisjoint
  refine ⟨fun k => Nat.mul_mod_right _ _, fun n j k addr hn hj hk => ?_⟩
  obtain ⟨offj, hoffj, hj⟩ := exists_offset_of_inWindow hn hj
  obtain ⟨offk, hoffk, hk⟩ := exists_offset_of_inWindow hn hk
  have hslot : inSlot j addr = true := hj ▸ (inSlot_iff hoffj).mpr rfl
  exact (inSlot_iff hoffk).mp (hk ▸ hslot)

/-! ### Refused accesses (R53, R57) -/

/-- The offsets between the registers and `BUF`, and those above `BUF`, are unmapped (R22, R57). -/
theorem windowTarget_unmapped {n off : Nat} (h : 0x38 ≤ off ∧ off < 0x1000 ∨ 0x1000 + n ≤ off) :
    windowTarget n off = none := by
  rw [windowTarget_of_le (by omega), if_neg (by omega)]

/-- An access that is not of 32 bits, aligned and mapped is refused, whatever the host may reach (R53, R57). -/
theorem access_refused (poll : Target → Bool) {width off : Nat}
    (h : width ≠ 32 ∨ off % 4 ≠ 0 ∨ windowTarget s.params.bufBytes off = none) :
    ∃ r, s.access poll width off = .error r := by
  cases hacc : s.access poll width off with
  | error r => exact ⟨r, rfl⟩
  | ok tgt =>
    obtain ⟨hwidth, halign, hmapped, -⟩ := access_ok hacc
    rcases h with h | h | h
    · exact absurd hwidth h
    · exact absurd halign h
    · simp [h] at hmapped

/-- Settles O10, from the checks that a permitted access has passed. -/
theorem badAccessRefused : Obligations.BadAccessRefused := by
  unfold Obligations.BadAccessRefused
  intro s width off v rest hd hh hbad
  have hrefused (poll : Target → Bool) : ∃ r, ({ s with host := rest } : State).access poll width off = .error r :=
    access_refused poll (hbad.imp_right fun h => h.imp_right windowTarget_unmapped)
  rw [step_of_due_none hd]
  rcases hh with hh | hh
  · obtain ⟨r, hr⟩ := hrefused fun tgt => tgt == .reg .status
    exact ⟨r, by simp only [hostStep_cons hh, State.perform, State.hostRead, State.readAccess, hr]⟩
  · obtain ⟨r, hr⟩ := hrefused fun _ => false
    exact ⟨r, by simp only [hostStep_cons hh, State.perform, State.hostWrite, State.writeAccess, hr]⟩

end Sys2Proof.Machine

namespace Sys2Proof

variable {w : Word32} {i : Instr} {n : Nat}

/-! ### Decoding and encoding (R70 to R72) -/

/-- Where `RSV` is 0, the word is its `OPC` (R70). -/
theorem toNat_opcField_of_rsvOk (h : rsvOk w = true) : (opcField w).toNat = w.toNat := by
  have hrsv : (rsvField w).toNat = 0 := by rw [beq_iff_eq.mp h]; rfl
  simp only [rsvField, BitVec.extractLsb'_toNat, Nat.shiftRight_eq_div_pow] at hrsv
  simp only [opcField, BitVec.extractLsb'_toNat, Nat.shiftRight_zero]
  omega

theorem toNat_encode_of_decodeOpc (h : decodeOpc n = .ok i) : (encode i).toNat = n := by
  unfold decodeOpc at h
  split at h <;> cases h <;> rfl

/-- `OPC` is in 0x0..0x5 exactly when the opcode map names a command for it (R71). -/
theorem exists_decodeOpc_ok_iff : (∃ i, decodeOpc n = .ok i) ↔ n ≤ 5 := by
  constructor
  · rintro ⟨i, h⟩
    rw [← toNat_encode_of_decodeOpc h]
    cases i <;> decide
  · intro h
    interval_cases n <;> exact ⟨_, rfl⟩

theorem decode_ok_iff : decode w = .ok i ↔ rsvOk w = true ∧ decodeOpc (opcField w).toNat = .ok i := by
  unfold decode
  split <;> simp [*]

@[simp] theorem decode_encode (i : Instr) : decode (encode i) = .ok i := by cases i <;> rfl

theorem decode_eq_ok_iff_eq_encode : decode w = .ok i ↔ w = encode i := by
  constructor
  · intro h
    obtain ⟨hrsv, hopc⟩ := decode_ok_iff.mp h
    apply BitVec.eq_of_toNat_eq
    rw [toNat_encode_of_decodeOpc hopc, toNat_opcField_of_rsvOk hrsv]
  · rintro rfl
    exact decode_encode i

theorem exists_decode_ok_iff :
    (∃ i, decode w = .ok i) ↔ w.extractLsb' 4 28 = 0#28 ∧ (w.extractLsb' 0 4).toNat ≤ 5 := by
  simp only [decode_ok_iff, exists_and_left, exists_decodeOpc_ok_iff, rsvOk, beq_iff_eq]
  rfl

/-- Settles O2: where `RSV` is 0 the word is its `OPC`, which the opcode map takes to the command of that number. -/
theorem decodeEncodeAgree : Obligations.DecodeEncodeAgree := by
  unfold Obligations.DecodeEncodeAgree
  exact ⟨⟨rfl, rfl, rfl, rfl, rfl, rfl⟩, fun _ _ => decode_eq_ok_iff_eq_encode, fun _ => exists_decode_ok_iff⟩

/-- Settles O1: the six words are those of the encoder, and the two neighbours each fail one check of the decoder. -/
theorem tableWordsDecode : Obligations.TableWordsDecode := by
  unfold Obligations.TableWordsDecode
  exact ⟨decode_encode .nop, decode_encode .init, decode_encode .reset, decode_encode .update, decode_encode .final,
    decode_encode .clrerr, rfl, rfl⟩

/-- A word that selects no command is rejected by the decoder (R72). -/
theorem exists_decode_error (h : w.extractLsb' 4 28 ≠ 0#28 ∨ 6 ≤ (w.extractLsb' 0 4).toNat) :
    ∃ e, decode w = .error e := by
  cases hw : decode w with
  | error e => exact ⟨e, rfl⟩
  | ok i =>
    obtain ⟨hrsv, hopc⟩ := exists_decode_ok_iff.mp ⟨i, hw⟩
    rcases h with h | h
    · exact absurd hrsv h
    · omega

end Sys2Proof

namespace Sys2Proof.Machine

variable {s : State} {w : Word32} {rest : List HostOp}

/-- The completion of an illegal word (R72, R181). -/
theorem step_of_decode_error {e : DecodeError} (hd : s.due = some w) (he : decode w = .error e) :
    step s = .next (s.recordError .illegalCmd).retire := by
  simp [step, hd, State.complete, he, retired]

/-- Settles O3, from the completion of a word that the decoder rejects. -/
theorem illegalWordRecordsError : Obligations.IllegalWordRecordsError := by
  unfold Obligations.IllegalWordRecordsError
  intro s w hd hw
  obtain ⟨e, he⟩ := exists_decode_error hw
  rw [step_of_decode_error hd he]
  rfl

/-! ### `WAIT` (R76) -/

theorem step_wait (hd : s.due = none) (hh : s.host = .wait :: rest) :
    step s = .next (if s.busy then s.poll else ({ s with host := rest } : State).poll) := by
  rw [step_of_due_none hd, hostStep_cons hh]
  rfl

/-- After a read of `STATUS` that shows `BUSY = 0` the host need not poll (R61, R254). -/
theorem State.mustPoll_poll (hb : s.busy = false) : s.poll.mustPoll = false := by
  have hpending : s.pending = none := by simpa [State.busy] using hb
  rw [mustPoll_eq_false]
  simp [State.poll, State.busy, hpending]

/-- Settles O20: each round of `WAIT` is a read of `STATUS`, and the last is the one that shows `BUSY = 0`. -/
theorem waitPolls : Obligations.WaitPolls := by
  unfold Obligations.WaitPolls
  intro s rest hd hh
  cases hb : s.busy with
  | true =>
    have hstep : step s = .next s.poll := by rw [step_wait hd hh, if_pos hb]
    obtain ⟨htrace, hhost, hpending, -⟩ := read_frame (s := s) (rest := s.host) (t := s.poll) rfl
    exact ⟨s.poll, hstep, htrace, hpending, fun _ => hhost.trans hh, nofun⟩
  | false =>
    have hstep : step s = .next ({ s with host := rest } : State).poll := by rw [step_wait hd hh, hb]; rfl
    obtain ⟨htrace, hhost, hpending, -⟩ := read_frame (s := s) (t := ({ s with host := rest } : State).poll) rfl
    exact ⟨_, hstep, htrace, hpending, nofun, fun _ => ⟨hhost, State.mustPoll_poll hb⟩⟩

end Sys2Proof.Machine

namespace Sys2Proof.Machine

variable {w n : Nat}

/-! ### Rotations (R100, R101) -/

/-- At amount 0 the formula of R100 and R101 is not needed: its right shift by the whole width would leave nothing. -/
theorem rotateLeft_eq_ite (x : BitVec w) (hn : n < w) :
    x.rotateLeft n = if n = 0 then x else (x <<< n) ||| (x >>> (w - n)) := by
  rw [BitVec.rotateLeft_eq_rotateLeftAux_of_lt hn, BitVec.rotateLeftAux]
  split
  · subst n
    simp [BitVec.ushiftRight_eq_zero]
  · rfl

theorem rotl32_eq_rotateLeft (x : Word32) (hn : n < 32) : rotl32 x n = x.rotateLeft n :=
  (rotateLeft_eq_ite x hn).symm

theorem rotl64_eq_rotateLeft (x : Word64) (hn : n < 64) : rotl64 x n = x.rotateLeft n :=
  (rotateLeft_eq_ite x hn).symm

/-- The library splits a rotation's bits at the amount; both cases read the bit `n` places below, modulo the width. -/
theorem getLsbD_rotateLeft_eq_mod {i : Nat} (x : BitVec w) (hn : n < w) (hi : i < w) :
    (x.rotateLeft n).getLsbD i = x.getLsbD ((i + w - n) % w) := by
  rw [BitVec.getLsbD_rotateLeft_of_le hn]
  by_cases hwrap : i < n
  · have hbit : (i + w - n) % w = w - n + i := by rw [Nat.mod_eq_of_lt (by omega)]; omega
    simp [hwrap, hbit]
  · have hbit : (i + w - n) % w = i - n := by
      rw [show i + w - n = i - n + w by omega, Nat.add_mod_right, Nat.mod_eq_of_lt (by omega)]
    simp [hwrap, hi, hbit]

/-- Settles O26: the model's rotations are the library's, whose bits are those `n` places below. -/
theorem rotationsAreCircular : Obligations.RotationsAreCircular := by
  unfold Obligations.RotationsAreCircular
  constructor
  · intro x n i hn hi
    rw [rotl32_eq_rotateLeft x hn, getLsbD_rotateLeft_eq_mod x hn hi]
  · intro x n i hn hi
    rw [rotl64_eq_rotateLeft x hn, getLsbD_rotateLeft_eq_mod x hn hi]

/-! ### Avalanche functions (R102, R103) -/

/-- Only zero is unchanged by a right shift of at least one place. -/
theorem eq_zero_of_eq_ushiftRight {z : BitVec w} (hn : n ≠ 0) (h : z = z >>> n) : z = 0#w := by
  have hdiv : z.toNat / 2 ^ n = z.toNat := by
    rw [← Nat.shiftRight_eq_div_pow, ← BitVec.toNat_ushiftRight, ← h]
  exact BitVec.eq_of_toNat_eq ((Nat.div_eq_self.mp hdiv).resolve_right (Nat.one_lt_two_pow hn).ne')

/-- Words with the same image differ by a word that the shift leaves unchanged, hence by zero. -/
theorem xor_ushiftRight_injective (hn : n ≠ 0) : Function.Injective fun x : BitVec w => x ^^^ (x >>> n) := by
  intro x y h
  have hdiff : x ^^^ y = (x ^^^ y) >>> n := by
    rw [BitVec.ushiftRight_xor_distrib, ← BitVec.xor_eq_zero_iff]
    calc x ^^^ y ^^^ (x >>> n ^^^ y >>> n) = (x ^^^ x >>> n) ^^^ (y ^^^ y >>> n) := by ac_rfl
      _ = 0#w := BitVec.xor_eq_zero_iff.mpr h
  exact BitVec.xor_eq_zero_iff.mp (eq_zero_of_eq_ushiftRight hn hdiff)

/-- An odd multiplier is coprime to `2 ^ w`, so it cancels. -/
theorem mul_odd_injective {c : BitVec w} (hc : Odd c.toNat) : Function.Injective (· * c) := by
  intro x y h
  have hmod : x.toNat * c.toNat ≡ y.toNat * c.toNat [MOD 2 ^ w] := by
    simpa only [Nat.ModEq, BitVec.toNat_mul] using congrArg BitVec.toNat h
  have hcoprime : Nat.gcd (2 ^ w) c.toNat = 1 := (Nat.coprime_two_left.mpr hc).pow_left w
  exact BitVec.eq_of_toNat_eq ((hmod.cancel_right_of_coprime hcoprime).eq_of_lt_of_lt x.isLt y.isLt)

theorem xorShift32_bijective (hn : n ≠ 0) : Function.Bijective (xorShift32 n) :=
  Finite.injective_iff_bijective.mp (xor_ushiftRight_injective hn)

theorem xorShift64_bijective (hn : n ≠ 0) : Function.Bijective (xorShift64 n) :=
  Finite.injective_iff_bijective.mp (xor_ushiftRight_injective hn)

theorem mul_odd_bijective {c : BitVec w} (hc : Odd c.toNat) : Function.Bijective (· * c) :=
  Finite.injective_iff_bijective.mp (mul_odd_injective hc)

/-- Each step of R102 is a bijection: a shift by at least one place or an odd multiplier. -/
theorem fmix32_bijective : Function.Bijective fmix32 := by
  have hmul1 : Function.Bijective (· * 0x85ebca6b#32) := mul_odd_bijective (by decide)
  have hmul2 : Function.Bijective (· * 0xc2b2ae35#32) := mul_odd_bijective (by decide)
  have hshift16 : Function.Bijective (xorShift32 16) := xorShift32_bijective (by decide)
  have hshift13 : Function.Bijective (xorShift32 13) := xorShift32_bijective (by decide)
  exact hshift16.comp (hmul2.comp (hshift13.comp (hmul1.comp hshift16)))

/-- Each step of R103 is a bijection: a shift by at least one place or an odd multiplier. -/
theorem fmix64_bijective : Function.Bijective fmix64 := by
  have hmul1 : Function.Bijective (· * 0xff51afd7ed558ccd#64) := mul_odd_bijective (by decide)
  have hmul2 : Function.Bijective (· * 0xc4ceb9fe1a85ec53#64) := mul_odd_bijective (by decide)
  have hshift33 : Function.Bijective (xorShift64 33) := xorShift64_bijective (by decide)
  exact hshift33.comp (hmul2.comp (hshift33.comp (hmul1.comp hshift33)))

/-- Settles O27: the sequences are the definitions, and a composition of bijections is one. -/
theorem fmixBijective : Obligations.FmixBijective := by
  unfold Obligations.FmixBijective
  exact ⟨fun _ => ⟨_, _, _, _, rfl, rfl, rfl, rfl, rfl⟩, fun _ => ⟨_, _, _, _, rfl, rfl, rfl, rfl, rfl⟩,
    fmix32_bijective, rfl, fmix64_bijective, rfl⟩

end Sys2Proof.Machine

namespace Sys2Proof.Machine

variable {rd : Nat → Byte} {a n i : Nat}

/-! ### Words as the bytes they are read from (R9) -/

theorem testBit_memRead (rd : Nat → Byte) (a n j : Nat) :
    (memRead rd a n).testBit j = (decide (j < 8 * n) && (rd (a + j / 8)).getLsbD (j % 8)) := by
  induction n with
  | zero => simp
  | succ n ih =>
    rw [memRead_succ, Nat.shiftLeft_eq, Nat.add_comm, Nat.mul_comm,
      Nat.testBit_two_pow_mul_add _ (memRead_lt rd a n), ih, BitVec.testBit_toNat]
    by_cases hlow : j < 8 * n
    · simp [hlow, show j < 8 * (n + 1) by omega]
    · by_cases hbyte : j < 8 * (n + 1)
      · simp [hlow, hbyte, show j / 8 = n by omega, show j - 8 * n = j % 8 by omega]
      · simp [hlow, hbyte, BitVec.getLsbD_of_ge _ _ (show 8 ≤ j - 8 * n by omega)]

theorem getLsbD_ofNat_memRead (w : Nat) (rd : Nat → Byte) (a n j : Nat) :
    (BitVec.ofNat w (memRead rd a n)).getLsbD j =
      (decide (j < w) && (decide (j < 8 * n) && (rd (a + j / 8)).getLsbD (j % 8))) := by
  rw [BitVec.getLsbD_ofNat, testBit_memRead]

/-- A byte moved up by `i` bytes has its bits at the places `j` with `j div 8 = i`. -/
theorem getLsbD_byte_shiftLeft (w : Nat) (b : Byte) (i j : Nat) :
    (b.zeroExtend w <<< (8 * i)).getLsbD j = (decide (j < w) && (decide (j / 8 = i) && b.getLsbD (j % 8))) := by
  rw [BitVec.getLsbD_shiftLeft, BitVec.getLsbD_setWidth]
  rcases lt_trichotomy (j / 8) i with hbelow | rfl | habove
  · simp [show j < 8 * i by omega, hbelow.ne]
  · by_cases hj : j < w
    · simp [hj, show j - 8 * (j / 8) = j % 8 by omega, show ¬ j < 8 * (j / 8) by omega, show j % 8 < w by omega]
    · simp [hj]
  · simp [habove.ne', BitVec.getLsbD_of_ge b _ (show 8 ≤ j - 8 * i by omega)]

theorem ofNat_memRead_succ (w : Nat) (rd : Nat → Byte) (a n : Nat) :
    BitVec.ofNat w (memRead rd a (n + 1)) =
      BitVec.ofNat w (memRead rd a n) ||| (rd (a + n)).zeroExtend w <<< (8 * n) := by
  apply BitVec.eq_of_getLsbD_eq
  intro j hj
  rw [BitVec.getLsbD_or, getLsbD_ofNat_memRead, getLsbD_ofNat_memRead, getLsbD_byte_shiftLeft]
  by_cases hbyte : j / 8 = n
  · simp [hj, hbyte, show j < 8 * (n + 1) by omega, show ¬ j < 8 * n by omega]
  · simp [hj, hbyte, show j < 8 * (n + 1) ↔ j < 8 * n by omega]

/-- A byte put where the word had none is xored into the word at its place. -/
theorem ofNat_memRead_update_of_zero (w : Nat) (b : Byte) (hi : i < n) (h0 : rd (a + i) = 0#8) :
    BitVec.ofNat w (memRead (Function.update rd (a + i) b) a n) =
      BitVec.ofNat w (memRead rd a n) ^^^ b.zeroExtend w <<< (8 * i) := by
  apply BitVec.eq_of_getLsbD_eq
  intro j hj
  rw [BitVec.getLsbD_xor, getLsbD_ofNat_memRead, getLsbD_ofNat_memRead, getLsbD_byte_shiftLeft]
  by_cases hbyte : j / 8 = i
  · simp [hj, hbyte, h0, show j < 8 * n by omega]
  · simp [hbyte]

theorem memRead_update_of_disjoint {c : Nat} (b : Byte) (hc : c < a ∨ a + n ≤ c) :
    memRead (Function.update rd c b) a n = memRead rd a n :=
  memRead_congr n fun j hj => Function.update_of_ne (show a + j ≠ c by omega) b rd

theorem memRead_eq_zero (h : ∀ j, j < n → rd (a + j) = 0#8) : memRead rd a n = 0 := by
  induction n with
  | zero => rfl
  | succ n ih => simp [memRead_succ, h n (by omega), ih fun j hj => h j (by omega)]

/-! ### Block decode (R123, R142, R162) -/

theorem blockWord32_eq_bytes (rd : Nat → Byte) (a : Nat) :
    blockWord32 rd a = ((rd a).zeroExtend 32 ||| (rd (a + 1)).zeroExtend 32 <<< 8 |||
      (rd (a + 2)).zeroExtend 32 <<< 16 ||| (rd (a + 3)).zeroExtend 32 <<< 24) := by
  simp [blockWord32, ofNat_memRead_succ]

/-- A 64-bit word has the 32-bit word at the lower address in its lower half. -/
theorem ofNat_memRead_eight (rd : Nat → Byte) (a : Nat) :
    BitVec.ofNat 64 (memRead rd a 8) = blockWord32 rd (a + 4) ++ blockWord32 rd a := by
  apply BitVec.eq_of_getLsbD_eq
  intro j hj
  rw [BitVec.getLsbD_append, blockWord32, blockWord32, getLsbD_ofNat_memRead, getLsbD_ofNat_memRead,
    getLsbD_ofNat_memRead]
  by_cases hlow : j < 32
  · simp [hlow, hj]
  · have hbyte : a + 4 + (j - 32) / 8 = a + j / 8 := by omega
    have hbit : (j - 32) % 8 = j % 8 := by omega
    have hhigh : j - 32 < 32 := by omega
    simp [hlow, hj, hbyte, hbit, hhigh]

theorem blockWords64_eq_halves (rd : Nat → Byte) (a : Nat) :
    blockWords64 rd a =
      { h1 := blockWord32 rd (a + 4) ++ blockWord32 rd a
        h2 := blockWord32 rd (a + 12) ++ blockWord32 rd (a + 8) } := by
  rw [blockWords64, ofNat_memRead_eight, ofNat_memRead_eight]

/-! ### Tail assembly (R125, R145, R165) -/

theorem blockWord32_update_of_zero (b : Byte) (hi : i < 4) (h0 : rd (a + i) = 0#8) :
    blockWord32 (Function.update rd (a + i) b) a = blockWord32 rd a ^^^ b.zeroExtend 32 <<< (8 * i) :=
  ofNat_memRead_update_of_zero 32 b hi h0

/-- Byte `i` of a block goes to lane `i div 4`, at byte `i mod 4` (R145). -/
theorem lane_update_of_zero (c p : Nat) (b : Byte) (h0 : rd (a + i) = 0#8) (hc : c = a + 4 * p) :
    BitVec.ofNat 32 (memRead (Function.update rd (a + i) b) c 4) =
      if i / 4 = p then BitVec.ofNat 32 (memRead rd c 4) ^^^ b.zeroExtend 32 <<< (8 * (i % 4))
      else BitVec.ofNat 32 (memRead rd c 4) := by
  split
  · have haddr : a + i = c + i % 4 := by omega
    rw [haddr] at h0 ⊢
    exact ofNat_memRead_update_of_zero 32 b (Nat.mod_lt i (by decide)) h0
  · rw [memRead_update_of_disjoint b (by omega)]

theorem blockWords86_update_of_zero (b : Byte) (hi : i < 16) (h0 : rd (a + i) = 0#8) :
    blockWords86 (Function.update rd (a + i) b) a =
      (blockWords86 rd a).xorAt (i / 4) (b.zeroExtend 32 <<< (8 * (i % 4))) := by
  rw [blockWords86, lane_update_of_zero a 0 b h0 rfl, lane_update_of_zero (a + 4) 1 b h0 rfl,
    lane_update_of_zero (a + 8) 2 b h0 rfl, lane_update_of_zero (a + 12) 3 b h0 rfl]
  have hlane : i / 4 < 4 := by omega
  interval_cases i / 4 <;> rfl

theorem blockWords64_update_of_zero (b : Byte) (hi : i < 16) (h0 : rd (a + i) = 0#8) :
    blockWords64 (Function.update rd (a + i) b) a =
      if i ≥ 8 then { blockWords64 rd a with
        h2 := (blockWords64 rd a).h2 ^^^ b.zeroExtend 64 <<< (8 * (i - 8)) }
      else { blockWords64 rd a with h1 := (blockWords64 rd a).h1 ^^^ b.zeroExtend 64 <<< (8 * i) } := by
  simp only [blockWords64]
  split
  · have haddr : a + i = a + 8 + (i - 8) := by omega
    rw [memRead_update_of_disjoint b (by omega)]
    rw [haddr] at h0 ⊢
    rw [ofNat_memRead_update_of_zero 64 b (by omega) h0]
  · rw [memRead_update_of_disjoint (a := a + 8) b (by omega), ofNat_memRead_update_of_zero 64 b (by omega) h0]

/-- The bytes below `e`, followed by zero bytes. -/
def padded (rd : Nat → Byte) (e : Nat) : Nat → Byte := fun a => if a < e then rd a else 0#8

/-- The bytes `rd` with the `i` bytes from `t` on cleared: those that a tail loop has still to fold in. -/
def cleared (rd : Nat → Byte) (t i : Nat) : Nat → Byte := fun a => if t ≤ a ∧ a < t + i then 0#8 else rd a

theorem padded_tail (rd : Nat → Byte) (t : Nat) {r : Nat} (hi : i < r) : padded rd (t + r) (t + i) = rd (t + i) :=
  if_pos (by omega)

theorem memRead_padded_of_le {e : Nat} (rd : Nat → Byte) (n : Nat) (h : e ≤ a) : memRead (padded rd e) a n = 0 :=
  memRead_eq_zero fun j _ => if_neg (show ¬ a + j < e by omega)

@[simp] theorem cleared_zero (rd : Nat → Byte) (t : Nat) : cleared rd t 0 = rd := by
  funext a
  rw [cleared, if_neg (by omega)]

theorem cleared_succ_last (rd : Nat → Byte) (t i : Nat) : cleared rd t (i + 1) (t + i) = 0#8 :=
  if_pos (by omega)

theorem update_cleared_succ (rd : Nat → Byte) (t i : Nat) :
    Function.update (cleared rd t (i + 1)) (t + i) (rd (t + i)) = cleared rd t i := by
  funext a
  by_cases ha : a = t + i
  · subst ha
    simp [cleared]
  · have hrange : t ≤ a ∧ a < t + (i + 1) ↔ t ≤ a ∧ a < t + i := by omega
    rw [Function.update_of_ne ha, cleared, cleared, if_congr hrange rfl rfl]

/-- With the whole tail cleared, the padded bytes are those before the tail. -/
theorem cleared_padded (rd : Nat → Byte) (t r : Nat) : cleared (padded rd (t + r)) t r = padded rd t := by
  funext a
  by_cases ha : a < t
  · rw [cleared, if_neg (by omega), padded, padded, if_pos ha, if_pos (by omega)]
  · by_cases hr : a < t + r
    · rw [cleared, if_pos (by omega), padded, if_neg ha]
    · rw [cleared, if_neg (by omega), padded, padded, if_neg ha, if_neg hr]

/-- A loop that folds the tail's bytes in from the highest down, each where the block decode has it, leaves the decode
of the tail padded with zeros: what is assembled so far is the decode of the bytes with those still to come cleared. -/
theorem loop_padded_eq_decode {K : Type} {loop fold : K → Nat → K} {decode : (Nat → Byte) → K} {t r : Nat}
    (hzero : ∀ k, loop k 0 = k) (hsucc : ∀ k i, loop k (i + 1) = loop (fold k i) i)
    (hfold : ∀ ρ i, i < r → ρ (t + i) = 0#8 →
      decode (Function.update ρ (t + i) (rd (t + i))) = fold (decode ρ) i) :
    loop (decode (padded rd t)) r = decode (padded rd (t + r)) := by
  have hloop (m : Nat) (hm : m ≤ r) :
      loop (decode (cleared (padded rd (t + r)) t m)) m = decode (padded rd (t + r)) := by
    induction m with
    | zero => rw [hzero, cleared_zero]
    | succ m ih =>
      rw [hsucc, ← hfold _ m hm (cleared_succ_last _ t m), ← padded_tail rd t hm, update_cleared_succ,
        ih (by omega)]
  rw [← cleared_padded rd t r]
  exact hloop r le_rfl

theorem tailWord32_eq_blockWord32 (rd : Nat → Byte) (t : Nat) {r : Nat} (hr : r ≤ 3) :
    tailWord32 rd t r = blockWord32 (padded rd (t + r)) t := by
  have hstart : blockWord32 (padded rd t) t = 0#32 := by simp [blockWord32, memRead_padded_of_le]
  rw [tailWord32, ← hstart]
  exact loop_padded_eq_decode (decode := (blockWord32 · t)) (tailLoop32_zero rd t) (tailLoop32_succ rd t)
    fun _ _ hi h0 => blockWord32_update_of_zero _ (by omega) h0

theorem tailWords86_eq_blockWords86 (rd : Nat → Byte) (t : Nat) {r : Nat} (hr : r ≤ 15) :
    tailWords86 rd t r = blockWords86 (padded rd (t + r)) t := by
  have hstart : blockWords86 (padded rd t) t = { w0 := 0#32, w1 := 0#32, w2 := 0#32, w3 := 0#32 } := by
    simp [blockWords86, memRead_padded_of_le]
  rw [tailWords86, ← hstart]
  exact loop_padded_eq_decode (decode := (blockWords86 · t)) (tailLoop86_zero rd t) (tailLoop86_succ rd t)
    fun _ _ hi h0 => blockWords86_update_of_zero _ (by omega) h0

theorem tailWords64_eq_blockWords64 (rd : Nat → Byte) (t : Nat) {r : Nat} (hr : r ≤ 15) :
    tailWords64 rd t r = blockWords64 (padded rd (t + r)) t := by
  have hstart : blockWords64 (padded rd t) t = { h1 := 0#64, h2 := 0#64 } := by
    simp [blockWords64, memRead_padded_of_le]
  rw [tailWords64, ← hstart]
  exact loop_padded_eq_decode (decode := (blockWords64 · t)) (tailLoop64_zero rd t) (tailLoop64_succ rd t)
    fun _ _ hi h0 => blockWords64_update_of_zero _ (by omega) h0

/-- Settles O28, from the bits of the words read, and for the tails from what one more byte changes in a decoded
block. -/
theorem tailIsPaddedBlock : Obligations.TailIsPaddedBlock := by
  unfold Obligations.TailIsPaddedBlock
  exact ⟨fun rd a => ⟨blockWord32_eq_bytes rd a, rfl, blockWords64_eq_halves rd a⟩, fun rd t r =>
    ⟨tailWord32_eq_blockWord32 rd t, tailWords86_eq_blockWords86 rd t, tailWords64_eq_blockWords64 rd t⟩⟩

/-! ### Construction (R121, R141, R161) -/

/-- The seed widened to 64 bits has the seed in its lower half and zero in its upper half. -/
theorem construct64_eq_toPair (seed : Word32) :
    construct64 seed = ({ w0 := seed, w1 := 0#32, w2 := seed, w3 := 0#32 } : Words4).toPair := by
  have hwiden : seed.zeroExtend 64 = 0#32 ++ seed := BitVec.setWidth_eq_append (by decide)
  rw [construct64, hwiden, Words4.toPair]

/-- Settles O37: the accumulators of `X64_128` are the storage words of the widened seeds. -/
theorem constructionState : Obligations.ConstructionState := by
  unfold Obligations.ConstructionState
  obtain ⟨-, -, toWords_toPair⟩ := pairViewRoundTrip
  exact fun seed => ⟨rfl, rfl, by rw [constructAcc, construct64_eq_toPair, toWords_toPair]⟩

/-! ### Block updates and fold-downs (R122 to R128, R143 to R149, R163 to R168) -/

/-- Settles O30: each line is the definition's own, with the constants put in and the lines before it by name. -/
theorem blockAndFoldDown : Obligations.BlockAndFoldDown := by
  unfold Obligations.BlockAndFoldDown
  exact ⟨fun _ _ => rfl, fun _ _ => rfl, fun _ _ => ⟨rfl, rfl, rfl, rfl⟩, fun _ _ => ⟨rfl, rfl⟩,
    fun _ _ => rfl, fun _ => ⟨rfl, rfl, rfl, rfl⟩, fun _ _ => rfl, fun _ _ => ⟨_, _, rfl, rfl, rfl, rfl⟩,
    fun _ _ => ⟨rfl, rfl, rfl⟩⟩

end Sys2Proof.Machine

namespace Sys2Proof.Machine

variable {rd : Nat → Byte} {t r w : Nat}

/-! ### Tail fold (R146, R166) -/

@[simp] theorem kmix86_zero (n : Lane) : kmix86 n 0#32 = 0#32 := by
  cases n <;> rfl

@[simp] theorem kmix64b_zero : kmix64b 0#64 = 0#64 := rfl

/-- A byte range that begins at or after the end of the tail decodes to zero in the padded block. -/
theorem ofNat_memRead_padded_tail (w : Nat) (rd : Nat → Byte) (n : Nat) {d : Nat} (hd : r ≤ d) :
    BitVec.ofNat w (memRead (padded rd (t + r)) (t + d) n) = 0#w := by
  rw [memRead_padded_of_le rd n (Nat.add_le_add_left hd t)]

theorem tailWords86_w1_eq_zero (hr : r ≤ 4) : (tailWords86 rd t r).w1 = 0#32 := by
  rw [tailWords86_eq_blockWords86 rd t (by omega)]
  exact ofNat_memRead_padded_tail 32 rd 4 hr

theorem tailWords86_w2_eq_zero (hr : r ≤ 8) : (tailWords86 rd t r).w2 = 0#32 := by
  rw [tailWords86_eq_blockWords86 rd t (by omega)]
  exact ofNat_memRead_padded_tail 32 rd 4 hr

theorem tailWords86_w3_eq_zero (hr : r ≤ 12) : (tailWords86 rd t r).w3 = 0#32 := by
  rw [tailWords86_eq_blockWords86 rd t (by omega)]
  exact ofNat_memRead_padded_tail 32 rd 4 hr

theorem tailWords64_h2_eq_zero (hr : r ≤ 8) : (tailWords64 rd t r).h2 = 0#64 := by
  rw [tailWords64_eq_blockWords64 rd t (by omega)]
  exact ofNat_memRead_padded_tail 64 rd 8 hr

/-- A condition on an xor is not observable when it fails only where the mask is zero. -/
theorem ite_xor_eq_xor {c : Prop} [Decidable c] {x m : BitVec w} (hm : ¬ c → m = 0#w) :
    (if c then x ^^^ m else x) = x ^^^ m :=
  ite_eq_left_iff.mpr fun hc => by rw [hm hc, BitVec.xor_zero]

/-- The conditional record updates of R146, lane by lane. -/
theorem tail86_eq_ite (h k : Words4) (r : Nat) :
    tail86 h k r =
      { w0 := h.w0 ^^^ kmix86 .l1 k.w0
        w1 := if r > 4 then h.w1 ^^^ kmix86 .l2 k.w1 else h.w1
        w2 := if r > 8 then h.w2 ^^^ kmix86 .l3 k.w2 else h.w2
        w3 := if r > 12 then h.w3 ^^^ kmix86 .l4 k.w3 else h.w3 } := by
  simp only [tail86, apply_ite Words4.w0, apply_ite Words4.w1, apply_ite Words4.w2, apply_ite Words4.w3, ite_self]

/-- The conditional record update of R166, word by word. -/
theorem tail64_eq_ite (h k : Words2) (r : Nat) :
    tail64 h k r =
      { h1 := h.h1 ^^^ kmix64a k.h1
        h2 := if r > 8 then h.h2 ^^^ kmix64b k.h2 else h.h2 } := by
  simp only [tail64, apply_ite Words2.h1, apply_ite Words2.h2, ite_self]

/-- Settles O29: the condition on a lane fails only for tails that leave the lane zero, and the mix of zero is zero. -/
theorem tailFoldsEveryLane : Obligations.TailFoldsEveryLane := by
  unfold Obligations.TailFoldsEveryLane
  intro rd t r _ _
  constructor
  · intro h
    have hmix1 (hr : ¬ r > 4) : kmix86 .l2 (tailWords86 rd t r).w1 = 0#32 := by
      rw [tailWords86_w1_eq_zero (not_lt.mp hr), kmix86_zero]
    have hmix2 (hr : ¬ r > 8) : kmix86 .l3 (tailWords86 rd t r).w2 = 0#32 := by
      rw [tailWords86_w2_eq_zero (not_lt.mp hr), kmix86_zero]
    have hmix3 (hr : ¬ r > 12) : kmix86 .l4 (tailWords86 rd t r).w3 = 0#32 := by
      rw [tailWords86_w3_eq_zero (not_lt.mp hr), kmix86_zero]
    rw [tail86_eq_ite, ite_xor_eq_xor hmix1, ite_xor_eq_xor hmix2, ite_xor_eq_xor hmix3]
  · intro h
    have hmix (hr : ¬ r > 8) : kmix64b (tailWords64 rd t r).h2 = 0#64 := by
      rw [tailWords64_h2_eq_zero (not_lt.mp hr), kmix64b_zero]
    rw [tail64_eq_ite, ite_xor_eq_xor hmix]

end Sys2Proof.Machine

namespace Sys2Proof.Machine

variable {i : Instr} {s t : State} {v : Variant} {w : Word32} {o n : Nat}

/-! ### Completion (R181, R182) -/

/-- The completion of a legal word (R181). -/
theorem step_of_exec (hd : s.due = some w) (hi : decode w = .ok i) (h : exec i s = .next t) :
    step s = .next t.retire := by
  simp [step, hd, State.complete, hi, h, retired]

/-- A due completion, of a legal or of an illegal word, ends in a retired state (R181, R221). -/
theorem exists_step_retire_of_due (hd : s.due = some w) : ∃ t : State, step s = .next t.retire := by
  cases hi : decode w with
  | ok i =>
    obtain ⟨t, ht⟩ := exec_next i s
    exact ⟨t, step_of_exec hd hi ht⟩
  | error e => exact ⟨_, step_of_decode_error hd hi⟩

/-- Settles O4: every command answers a next state, and its completion retires it. -/
theorem stepRunsDecoded : Obligations.StepRunsDecoded := by
  unfold Obligations.StepRunsDecoded
  intro s w i hd hi
  obtain ⟨t, ht⟩ := exec_next i s
  exact ⟨t, ht, step_of_exec hd hi ht⟩

/-- Settles O5: a retired state has nothing pending. -/
theorem completionClearsBusy : Obligations.CompletionClearsBusy := by
  unfold Obligations.CompletionClearsBusy
  intro s w hd
  obtain ⟨t, ht⟩ := exists_step_retire_of_due hd
  exact ⟨t.retire, ht, rfl, rfl⟩

/-! ### `NOP`, `INIT`, `RESET` and `CLRERR` (R183 to R186, R191) -/

/-- Settles O35: `NOP` answers the state it is given, and word 0 decodes to it. -/
theorem nopCommand : Obligations.NopCommand := by
  unfold Obligations.NopCommand
  exact fun s => ⟨rfl, fun hd => step_of_exec hd (i := .nop) rfl rfl⟩

/-- Settles O36: each row of R183's table is an arm of the selection. -/
theorem variantSelection : Obligations.VariantSelection := by
  unfold Obligations.VariantSelection
  exact fun _ _ => ⟨rfl, rfl, rfl, rfl, rfl⟩

/-- Settles O38: latching and then constructing writes these fields. -/
theorem initCommand : Obligations.InitCommand := by
  unfold Obligations.InitCommand
  exact fun _ => rfl

/-- Settles O39, from the two effects of `RESET`. -/
theorem resetCommand : Obligations.ResetCommand := by
  unfold Obligations.ResetCommand
  exact fun s => ⟨fun v hv => execReset_of_some hv, fun hv => execReset_of_none hv⟩

/-- Settles O44: the error fields are the whole of `CLRERR`'s effect. -/
theorem clrerrCommand : Obligations.ClrerrCommand := by
  unfold Obligations.ClrerrCommand
  exact fun _ => rfl

/-- Settles O51: `NOP` leaves the state, and `CLRERR` writes none of the session's fields. -/
theorem nopClrerrFrame : Obligations.NopClrerrFrame := by
  unfold Obligations.NopClrerrFrame
  constructor
  · intro s t h
    cases h
    exact ⟨⟨rfl, rfl, rfl, rfl, rfl, rfl, rfl⟩, ⟨rfl, rfl, rfl, rfl, rfl⟩⟩
  · intro s t h
    cases h
    exact ⟨rfl, rfl, rfl, rfl, rfl, rfl, rfl⟩

/-- Settles O52, from the effect of `INIT` and the two effects of `RESET`. -/
theorem initResetFrame : Obligations.InitResetFrame := by
  unfold Obligations.InitResetFrame
  constructor
  · intro s t h
    cases h
    exact ⟨⟨rfl, rfl, rfl, rfl, rfl⟩, rfl⟩
  · intro s t h
    rcases execReset_cases h with ⟨hv, rfl⟩ | ⟨v, hv, rfl⟩
    · have hidle : s.active = false := by simp [State.active, hv]
      exact ⟨rfl, rfl, rfl, by simp [hidle], fun _ => s.recordError_sameSession .notInit⟩
    · have hactive : s.active = true := by simp [State.active, hv]
      exact ⟨rfl, rfl, rfl, fun _ => ⟨rfl, rfl, rfl, rfl, rfl⟩, by simp [hactive]⟩

/-! ### `UPDATE`, `FINAL` and `poison()` (R187 to R190) -/

/-- The check of `UPDATE`'s arguments, on mathematical integers (R187). -/
theorem outOfBounds_iff : s.outOfBounds = true ↔
    s.offset.toInt < 0 ∨ s.length.toInt < 0 ∨ s.offset.toInt + s.length.toInt > (s.params.bufBytes : Int) := by
  simp only [State.outOfBounds, badBounds, Bool.or_eq_true, decide_eq_true_eq, or_assoc]
  rfl

/-- Arguments that are natural numbers and end within `BUF` pass the check (R187). -/
theorem outOfBounds_eq_false (ho : s.offset.toInt = (o : Int)) (hn : s.length.toInt = (n : Int))
    (hle : o + n ≤ s.params.bufBytes) : s.outOfBounds = false := by
  rw [Bool.eq_false_iff, ne_eq, outOfBounds_iff]
  omega

theorem updOffset_toNat (ho : s.offset.toInt = (o : Int)) : s.updOffset.toNat = o := by
  rw [State.updOffset, ho, Int.toNat_natCast]

theorem updLength_toNat (hn : s.length.toInt = (n : Int)) : s.updLength.toNat = n := by
  rw [State.updLength, hn, Int.toNat_natCast]

/-- Settles O41: within bounds the two effects of `UPDATE` differ by `FIN`, and absorbing from the buffer is absorbing
the byte string that stands there. -/
theorem updateAbsorption : Obligations.UpdateAbsorption := by
  unfold Obligations.UpdateAbsorption
  intro s v o n hv ho hn hle
  have hb := outOfBounds_eq_false ho hn hle
  constructor
  · intro hf
    have hacc := absorbAcc_bufByte v s s.acc o n
    rw [exec, execUpdate_of_absorbs hv hb hf, State.addLen, State.absorb, updOffset_toNat ho, updLength_toNat hn, hacc]
    rfl
  · intro hf
    rw [exec, execUpdate_of_fin hv hb hf, updLength_toNat hn]
    rfl

/-- Settles O40: an error is recorded where a check fails; `updateAbsorption` says what happens where none does. -/
theorem updateChecks : Obligations.UpdateChecks := by
  unfold Obligations.UpdateChecks
  refine fun s => ⟨fun hv => execUpdate_of_none hv, fun hv hbad => ?_, fun o n hv ho hn hle => ?_⟩
  · obtain ⟨v, hv⟩ := Option.ne_none_iff_exists'.mp hv
    exact execUpdate_of_outOfBounds hv (outOfBounds_iff.mpr hbad)
  · obtain ⟨v, hv⟩ := Option.ne_none_iff_exists'.mp hv
    obtain ⟨hopen, hfin⟩ := updateAbsorption s v o n hv ho hn hle
    cases hf : s.status.fin with
    | false => exact ⟨_, hopen hf, rfl, rfl⟩
    | true => exact ⟨_, hfin hf, rfl, rfl⟩

/-- Settles O42, from the three effects of `FINAL`. -/
theorem finalCommand : Obligations.FinalCommand := by
  unfold Obligations.FinalCommand
  exact fun s => ⟨fun v hv hf => execFinal_of_unfinished hv hf, fun v hv hf => execFinal_of_fin hv hf,
    fun hv => execFinal_of_none hv⟩

/-- Settles O43: the accumulators and the number of draws, as the variant selects them. -/
theorem poisonDraws : Obligations.PoisonDraws := by
  unfold Obligations.PoisonDraws
  refine fun s => ⟨fun hv => ?_, fun hv => ?_, rfl⟩
  · simp [State.poisonedAcc, State.poisonDraws, State.drawAt, hv]
  · simp [State.poisonedAcc, State.poisonDraws, State.drawAt, hv]

end Sys2Proof.Machine

namespace Sys2Proof.Machine

variable {s t : State} {w w' : Word32} {v : Variant} {rest : List HostOp}

/-! ### Issue (R180, R254) -/

/-- While the host must poll, a write to a register is refused (R254). -/
theorem writeAccess_of_mustPoll (hm : s.mustPoll = true) (r : Reg) :
    s.writeAccess 32 r.addr = .error (.busy r.addr) := by
  simp [State.writeAccess, State.access, r.addr_aligned, hm]

/-- Only a permitted `CMD` write leaves a command pending where none was (R180). -/
theorem eq_cmd_of_writeTarget_pending {tgt : Target} (hp : s.pending = none)
    (h : (s.writeTarget tgt w').pending = some w) : tgt = .reg .cmd ∧ w' = w := by
  cases tgt with
  | buf a => simp [State.writeTarget, hp] at h
  | reg r =>
    by_cases hr : r = .cmd
    · subst hr
      exact ⟨rfl, Option.some.inj h⟩
    · have hkept : (s.writeReg r w').pending = s.pending := s.writeReg_pending hr w'
      simp [State.writeTarget, hkept, hp] at h

/-- An operation of the outside world after which a command is pending where none was is the `CMD` write of its word
(R180). -/
theorem hostStep_issues (h : s.hostStep = .next t) (hp : s.pending = none) (ht : t.pending = some w) :
    ∃ rest, s.host = .write 32 Reg.cmd.addr w :: rest := by
  rcases hostStep_cases h with ⟨-, rfl⟩ | ⟨_, _, _, _, -, -, rfl⟩ | ⟨_, off, w', rest, tgt, hh, ha, rfl⟩ |
    ⟨_, -, -, rfl⟩ | ⟨_, -, -, rfl⟩ | ⟨_, -, rfl⟩
  case inr.inr.inl =>
    obtain ⟨rfl, -, hmap, -⟩ := access_ok ha
    have hlog : (({ s with host := rest } : State).log (.write off w')).pending = none := hp
    obtain ⟨rfl, rfl⟩ := eq_cmd_of_writeTarget_pending hlog ht
    obtain rfl := windowTarget_reg_addr hmap
    exact ⟨rest, hh⟩
  case inr.inr.inr.inr.inr => simp [State.reset] at ht
  all_goals simp [State.poll, hp] at ht

/-- Settles O7, from the effect of a write to `CMD`, its refusal, and what can leave a command pending. -/
theorem commandIssue : Obligations.CommandIssue := by
  unfold Obligations.CommandIssue
  refine ⟨fun s w rest hm hh => ⟨_, step_writeReg (r := .cmd) hm hh, rfl, rfl, rfl, ⟨rfl, rfl, rfl, rfl⟩,
    ⟨rfl, rfl, rfl, rfl, rfl, rfl, rfl⟩, ⟨rfl, rfl, rfl, rfl, rfl⟩, rfl, fun _ => rfl, rfl, rfl⟩,
    fun s w rest hd hb hh => ?_, fun s t w h hp ht => ?_⟩
  · have hm : ({ s with host := rest } : State).mustPoll = true := by simpa [State.mustPoll] using .inl hb
    have hrefused : ({ s with host := rest } : State).writeAccess 32 0x00C = .error (.busy 0x00C) :=
      writeAccess_of_mustPoll hm .cmd
    rw [step_of_due_none hd, hostStep_cons hh]
    simp only [State.perform, State.hostWrite, hrefused]
  · rcases step_cases h with ⟨_, _, u, -, -, -, rfl⟩ | ⟨_, _, -, -, rfl⟩ | ⟨-, hh⟩
    · simp at ht
    · simp at ht
    · exact hostStep_issues hh hp ht

/-! ### Completion under a polling host (R181, R261) -/

/-- The host only reads `STATUS`. -/
def State.PollsOnly (s : State) : Prop := ∀ op ∈ s.host, op = .wait ∨ op = .read 32 Reg.status.addr

/-- A read of `STATUS` while the command is not due leaves it pending and takes one from its delay (R181). -/
theorem step_pollsOnly (hb : s.busy = true) (hd : s.due = none) (hp : s.PollsOnly) :
    ∃ t, step s = .next t ∧ t.busy = true ∧ t.delay = s.delay - 1 ∧ t.PollsOnly := by
  obtain ⟨op, rest, hh⟩ := List.exists_cons_of_ne_nil (host_ne_nil_of_busy hb hd)
  have hop : op = .wait ∨ op = .read 32 Reg.status.addr := hp op (by simp [hh])
  have hrest : ∀ op ∈ rest, op = .wait ∨ op = .read 32 Reg.status.addr := fun op hmem => hp op (by simp [hh, hmem])
  rcases hop with rfl | rfl
  · refine ⟨s.poll, by rw [step_wait hd hh, if_pos hb], ?_, ?_, ?_⟩
    · simpa [State.poll, State.busy] using hb
    · simp [State.poll]
    · simpa [State.poll, State.PollsOnly] using hp
  · refine ⟨_, step_readStatus hd hh, ?_, ?_, ?_⟩
    · simpa [State.busy] using hb
    · simp
    · simpa [State.PollsOnly] using hrest

/-- A pending command is due as soon as its delay has gone by (R181). -/
theorem exists_due_of_delay_zero (hb : s.busy = true) (h0 : s.delay = 0) : ∃ w, s.due = some w := by
  rw [State.due, if_pos (.inl h0)]
  exact Option.isSome_iff_exists.mp hb

/-- A due command completes in one step. -/
theorem run_one_of_due (hd : s.due = some w) : ∃ t, Host.Core.run core 1 s = .next t ∧ t.busy = false := by
  obtain ⟨t, ht, -, hb⟩ := completionClearsBusy s w hd
  exact ⟨t, run_succ_of_step ht, hb⟩

/-- Each read of `STATUS` takes one from the delay until the command is due. -/
theorem run_completes (d : Nat) (s : State) (hdelay : s.delay = d) (hb : s.busy = true) (hp : s.PollsOnly) :
    ∃ k t, k ≤ d + 1 ∧ Host.Core.run core k s = .next t ∧ t.busy = false := by
  induction d generalizing s with
  | zero =>
    obtain ⟨w, hd⟩ := exists_due_of_delay_zero hb hdelay
    obtain ⟨t, hrun, ht⟩ := run_one_of_due hd
    exact ⟨1, t, le_rfl, hrun, ht⟩
  | succ d ih =>
    cases hd : s.due with
    | some w =>
      obtain ⟨t, hrun, ht⟩ := run_one_of_due hd
      exact ⟨1, t, by omega, hrun, ht⟩
    | none =>
      obtain ⟨u, hstep, hub, hud, hup⟩ := step_pollsOnly hb hd hp
      obtain ⟨k, t, hk, hrun, ht⟩ := ih u (by omega) hub hup
      exact ⟨k + 1, t, by omega, (run_succ_of_step hstep).trans hrun, ht⟩

/-- Settles O6, by induction on the delay. -/
theorem completionIsBounded : Obligations.CompletionIsBounded := by
  unfold Obligations.CompletionIsBounded
  exact fun s hb hp => run_completes s.delay s rfl hb hp

/-! ### The digest of a session (R193, R194) -/

section Digest

variable {chunks : List (List Byte)}

/-- The digest is defined only once a variant is latched, in a finalized session that is not poisoned (R194). -/
theorem constructed_of_digest_ne_none (h : s.digest ≠ none) :
    ∃ v, s.status.variant = some v ∧ s.status.fin = true ∧ s.status.undef = false := by
  cases hv : s.status.variant with
  | none => simp [State.digest, hv] at h
  | some v => exact ⟨v, rfl, by simpa [digest_of_constructed hv] using h⟩

/-- A finalized session's digest is that of its variant, seed and byte strings (R36, R194). -/
theorem State.Tracks.digest (ht : s.Tracks chunks) (hv : s.status.variant = some v) (hf : s.status.fin = true)
    (hu : s.status.undef = false) : s.digest = some (sessionDigest v s.seedAct chunks) := by
  obtain ⟨-, hacc⟩ := ht v hv hu
  rw [if_pos hf] at hacc
  simp [digest_of_constructed hv, hf, hu, hacc, sessionDigest]

/-- Settles O57: each digest is the session's, and the two sessions have the same variant, seed and byte strings. -/
theorem digestIsDetermined : Obligations.DigestIsDetermined := by
  unfold Obligations.DigestIsDetermined
  refine ⟨fun s v chunks hs hv hf hu => hs.digest hv hf hu, fun s t chunks hs ht hvariant hseed hsd htd => ?_⟩
  obtain ⟨v, hsv, hsf, hsu⟩ := constructed_of_digest_ne_none hsd
  obtain ⟨_, -, htf, htu⟩ := constructed_of_digest_ne_none htd
  have htv : t.status.variant = some v := hvariant ▸ hsv
  rw [hs.digest hsv hsf hsu, ht.digest htv htf htu, hseed]

end Digest

end Sys2Proof.Machine

namespace Sys2Proof.Machine

/-! ### Absorption in block-aligned pieces (R192) -/

section Aligned

variable {H K : Type} {size : Nat} {blocks absorb : H → Nat → Nat → H} {block : H → K → H}
  {wordsAt : Nat → K} {tail : H → Nat → Nat → H}
  (hzero : ∀ h a, blocks h a 0 = h)
  (hsucc : ∀ h a nb, blocks h a (nb + 1) = block (blocks h a nb) (wordsAt (a + size * nb)))

include hzero hsucc

/-- A loop over blocks may be cut between any two of them. -/
theorem loop_add (h : H) (a m nb : Nat) : blocks h a (m + nb) = blocks (blocks h a m) (a + size * m) nb := by
  induction nb with
  | zero => rw [Nat.add_zero, hzero]
  | succ nb ih => rw [← Nat.add_assoc, hsucc, hsucc, ih, Nat.mul_add, Nat.add_assoc]

/-- Absorption of whole blocks and a tail may be cut after any whole block, for every engine alike. -/
theorem absorption_add (hsize : 0 < size)
    (habsorb : ∀ h a n, absorb h a n = if n % size = 0 then blocks h a (n / size)
      else tail (blocks h a (n / size)) (a + size * (n / size)) (n % size))
    (h : H) (a m n : Nat) : absorb h a (size * m + n) = absorb (absorb h a (size * m)) (a + size * m) n := by
  have hhead : absorb h a (size * m) = blocks h a m := by
    rw [habsorb, if_pos (Nat.mul_mod_right size m), Nat.mul_div_cancel_left m hsize]
  rw [hhead, habsorb, habsorb, Nat.mul_add_mod, Nat.mul_add_div hsize, loop_add hzero hsucc, Nat.mul_add,
    Nat.add_assoc]

end Aligned

variable (rd : Nat → Byte) (a m n : Nat)

theorem absorb32_add (h : Word32) :
    absorb32 rd h a (4 * m + n) = absorb32 rd (absorb32 rd h a (4 * m)) (a + 4 * m) n :=
  absorption_add (tail := fun h t r => tail32 h (tailWord32 rd t r)) (blocks32_zero rd) (blocks32_succ rd) (by decide)
    (fun _ _ _ => rfl) h a m n

theorem absorb86_add (h : Words4) :
    absorb86 rd h a (16 * m + n) = absorb86 rd (absorb86 rd h a (16 * m)) (a + 16 * m) n :=
  absorption_add (tail := fun h t r => tail86 h (tailWords86 rd t r) r) (blocks86_zero rd) (blocks86_succ rd)
    (by decide) (fun _ _ _ => rfl) h a m n

theorem absorb64_add (h : Words2) :
    absorb64 rd h a (16 * m + n) = absorb64 rd (absorb64 rd h a (16 * m)) (a + 16 * m) n :=
  absorption_add (tail := fun h t r => tail64 h (tailWords64 rd t r) r) (blocks64_zero rd) (blocks64_succ rd)
    (by decide) (fun _ _ _ => rfl) h a m n

/-- Absorption into the accumulator file may be cut after any whole block. -/
theorem absorbAcc_add (v : Variant) (acc : Words4) :
    absorbAcc v rd acc a (v.blockBytes * m + n) =
      absorbAcc v rd (absorbAcc v rd acc a (v.blockBytes * m)) (a + v.blockBytes * m) n := by
  cases v with
  | h32 => simp only [absorbAcc, Variant.blockBytes, absorb32_add]
  | x86 => simp only [absorbAcc, Variant.blockBytes, absorb86_add]
  | x64 =>
    obtain ⟨-, toPair_toWords, -⟩ := pairViewRoundTrip
    simp only [absorbAcc, Variant.blockBytes, absorb64_add, toPair_toWords]

/-- A block-aligned byte string and the next one are absorbed like their concatenation (R192). -/
theorem absorbBytes_append (v : Variant) (acc : Words4) {c : List Byte} (hc : c.length % v.blockBytes = 0)
    (d : List Byte) : absorbBytes v acc (c ++ d) = absorbBytes v (absorbBytes v acc c) d := by
  obtain ⟨m, hm⟩ := Nat.dvd_of_mod_eq_zero hc
  have hhead : absorbAcc v (fun i => (c ++ d).getD i 0#8) acc 0 c.length = absorbBytes v acc c :=
    absorbAcc_congr v acc fun j hj => by simp only [Nat.zero_add, List.getD_append _ _ _ _ hj]
  have hrest (acc' : Words4) :
      absorbAcc v (fun i => (c ++ d).getD i 0#8) acc' (0 + c.length) d.length = absorbBytes v acc' d :=
    absorbAcc_congr v acc' fun j _ => by
      simp only [Nat.zero_add, List.getD_append_right _ _ _ _ (Nat.le_add_right c.length j), Nat.add_sub_cancel_left]
  rw [absorbBytes, List.length_append, ← hrest, ← hhead, hm]
  exact absorbAcc_add _ _ _ _ v acc

/-- Block-aligned byte strings and a last one are absorbed like their concatenation (R192). -/
theorem foldl_absorbBytes_eq_flatten (v : Variant) {chunks : List (List Byte)}
    (hchunks : ∀ c ∈ chunks, c.length % v.blockBytes = 0) (last : List Byte) (acc : Words4) :
    (chunks ++ [last]).foldl (absorbBytes v) acc = absorbBytes v acc (chunks ++ [last]).flatten := by
  induction chunks generalizing acc with
  | nil => simp
  | cons c chunks ih =>
    obtain ⟨hc, htail⟩ := List.forall_mem_cons.mp hchunks
    rw [List.cons_append, List.foldl_cons, List.flatten_cons, absorbBytes_append v acc hc, ih htail]

/-- The byte counter does not see how the bytes are cut (R36). -/
theorem sessionLen_flatten (chunks : List (List Byte)) : sessionLen [chunks.flatten] = sessionLen chunks := by
  simp [sessionLen, List.length_flatten]

/-- Settles O33, by induction on the byte strings; and for each variant one byte before a second one, whose tails are
folded apart, is a counterexample without alignment. -/
theorem chunking : Obligations.Chunking := by
  unfold Obligations.Chunking
  refine ⟨fun v seed chunks last hchunks => ?_, fun v => ⟨0#32, [1#8], [2#8], ?_⟩⟩
  · have hacc : sessionAcc v seed (chunks ++ [last]) = sessionAcc v seed [(chunks ++ [last]).flatten] :=
      foldl_absorbBytes_eq_flatten v hchunks last _
    rw [sessionDigest, sessionDigest, hacc, sessionLen_flatten]
  · cases v <;> decide +kernel

end Sys2Proof.Machine

namespace Sys2Proof.Machine

variable {i : Instr} {s t : State} {w : Word32} {d : ErrCode}

/-! ### The checks of a command and the error each reports (R220 to R222) -/

theorem active_eq_false : s.active = false ↔ s.status.variant = none := by simp [State.active]

theorem active_eq_true : s.active = true ↔ ∃ v, s.status.variant = some v := Option.isSome_iff_exists

theorem wordWf_encode (i : Instr) : wordWf (encode i) = true := by cases i <;> rfl

/-- An illegal word is one that the decoder rejects (R72). -/
theorem exists_decode_error_of_wordWf (h : wordWf w = false) : ∃ e, decode w = .error e := by
  cases hw : decode w with
  | error e => exact ⟨e, rfl⟩
  | ok i => simp [decode_eq_ok_iff_eq_encode.mp hw, wordWf_encode] at h

/-- Before any `INIT` a command that needs one reports `NOT_INIT`, whatever else is wrong (R222). -/
theorem exec_of_none (hi : i ∈ [Instr.reset, .update, .final]) (hv : s.status.variant = none) :
    exec i s = .next (s.recordError .notInit) := by
  obtain rfl | rfl | rfl : i = .reset ∨ i = .update ∨ i = .final := by simpa using hi
  · exact execReset_of_none hv
  · exact execUpdate_of_none hv
  · exact execFinal_of_none hv

/-- The two ways in which a command is aborted (R223). -/
theorem aborts_cases (h : aborts i s = true) :
    (i ∈ [Instr.reset, .update, .final] ∧ s.status.variant = none) ∨
      ∃ v, i = .update ∧ s.status.variant = some v ∧ s.outOfBounds = true := by
  cases i with
  | nop | init | clrerr => simp [aborts] at h
  | reset | final => exact .inl ⟨by simp, active_eq_false.mp (by simpa [aborts] using h)⟩
  | update =>
    cases hv : s.status.variant with
    | none => exact .inl ⟨by simp, rfl⟩
    | some v => exact .inr ⟨v, rfl, rfl, by simpa [aborts, State.active, hv] using h⟩

/-- An aborted command records its error and does nothing else (R223). -/
theorem exec_of_aborts (h : aborts i s = true) : ∃ c, exec i s = .next (s.recordError c) := by
  rcases aborts_cases h with ⟨hi, hv⟩ | ⟨v, rfl, hv, hb⟩
  · exact ⟨.notInit, exec_of_none hi hv⟩
  · exact ⟨.bounds, execUpdate_of_outOfBounds hv hb⟩

/-- Settles O46: what every command leaves, and the session, which recording an error leaves too. -/
theorem errorsArePrecise : Obligations.ErrorsArePrecise := by
  unfold Obligations.ErrorsArePrecise
  intro i s t hab h
  obtain ⟨hinputs, houtside, hbuf, -⟩ := commandFrame i s t h
  obtain ⟨c, hc⟩ := exec_of_aborts hab
  obtain rfl : s.recordError c = t := by simpa [hc] using h
  exact ⟨hinputs, houtside, s.recordError_sameSession c, hbuf⟩

/-! ### What is reported and what sticks (R221, R222, R225) -/

/-- Between `s` and `t` error `c` has been reported, and no other. -/
def Reports (c : ErrCode) (s t : State) : Prop :=
  t.status.ecode = some c ∧ ∀ d, t.status.sticky d = (decide (d = c) || s.status.sticky d)

/-- Between `s` and `t` at most one error has been reported and none cleared. -/
def ReportsAtMostOne (s t : State) : Prop := SameErrors s t ∨ ∃ c, Reports c s t

theorem State.recordError_reports (s : State) (c : ErrCode) : Reports c s (s.recordError c) := by
  simp [Reports]

/-- Poisoning reports nothing beyond the `SEQUENCE` error before it (R188 to R190). -/
theorem State.misuse_reports (s : State) : Reports .sequence s s.misuse :=
  ⟨rfl, fun d => (Status.sticky_undef _ d true).trans (s.status.record_sticky .sequence d)⟩

theorem SameErrors.of_status_eq (h : t.status = s.status) : SameErrors s t := by
  constructor <;> rw [h]

/-- Retirement reports and clears nothing (R181). -/
theorem ReportsAtMostOne.retire (h : ReportsAtMostOne s t) : ReportsAtMostOne s t.retire :=
  h.imp_left fun ⟨hbounds, hseq, hcmd, hnoInit, hecode⟩ => ⟨hbounds, hseq, hcmd, hnoInit, hecode⟩

/-- Every command but `CLRERR` clears no error and reports at most one (R222, R225). -/
theorem exec_reportsAtMostOne (hi : i ≠ .clrerr) (h : exec i s = .next t) : ReportsAtMostOne s t := by
  refine exec_effect (P := ReportsAtMostOne s) h ?nop ?init ?notInit ?reset ?bounds ?late ?absorb ?again ?final ?clrerr
  case notInit => exact fun _ _ => .inr ⟨_, s.recordError_reports _⟩
  case bounds => exact fun _ _ _ _ => .inr ⟨_, s.recordError_reports _⟩
  case late => exact fun _ _ _ _ _ => .inr ⟨_, s.misuse_reports⟩
  case again => exact fun _ _ _ _ => .inr ⟨_, s.misuse_reports⟩
  case clrerr => exact fun h => absurd h hi
  all_goals intros; exact .inl ⟨rfl, rfl, rfl, rfl, rfl⟩

/-- Settles O45: at most one report of any command, and for each check, past those before it, the equation of the
command that fails it. -/
theorem errorPriority : Obligations.ErrorPriority := by
  unfold Obligations.ErrorPriority
  refine ⟨fun i s t hi h => exec_reportsAtMostOne hi h, fun s t w hd hw h => ?_, fun i s t hi ha h => ?_,
    fun s t ha hb h => ?_, fun s t ha hb hf h => ?_, fun s t ha hf h => ?_⟩
  · obtain ⟨e, he⟩ := exists_decode_error_of_wordWf hw
    cases (step_of_decode_error hd he).symm.trans h
    rfl
  · cases (exec_of_none hi (active_eq_false.mp ha)).symm.trans h
    rfl
  · obtain ⟨v, hv⟩ := active_eq_true.mp ha
    cases (execUpdate_of_outOfBounds hv hb).symm.trans h
    rfl
  · obtain ⟨v, hv⟩ := active_eq_true.mp ha
    cases (execUpdate_of_fin hv hb hf).symm.trans h
    rfl
  · obtain ⟨v, hv⟩ := active_eq_true.mp ha
    cases (execFinal_of_fin hv hf).symm.trans h
    rfl

theorem ReportsAtMostOne.sticky_eq_true (h : ReportsAtMostOne s t) (hd : s.status.sticky d = true) :
    t.status.sticky d = true := by
  rcases h with hs | ⟨c, -, hsticky⟩
  · rw [Status.sticky_congr hs.errBounds hs.errSeq hs.errCmd hs.errNoInit, hd]
  · rw [hsticky d, hd, Bool.or_true]

theorem ReportsAtMostOne.ecode_ne_none (h : ReportsAtMostOne s t) (he : s.status.ecode ≠ none) :
    t.status.ecode ≠ none := by
  rcases h with hs | ⟨c, hecode, -⟩
  · rwa [hs.ecode]
  · simp [hecode]

/-- A step clears no error and reports at most one, unless it completes `CLRERR` or is a hardware reset (R225). -/
theorem step_reportsAtMostOne (h : step s = .next t) :
    (s.completing = some .clrerr ∨ s.resetsNext = true) ∨ ReportsAtMostOne s t := by
  rcases step_cases h with ⟨w, i, u, hd, hi, hu, rfl⟩ | ⟨w, e, -, -, rfl⟩ | ⟨hd, hh⟩
  · by_cases hclr : i = .clrerr
    · exact .inl (.inl (hclr ▸ completing_of_due hd hi))
    · exact .inr (exec_reportsAtMostOne hclr hu).retire
  · exact .inr (.inr ⟨_, s.recordError_reports .illegalCmd⟩)
  · rcases hostStep_session hh with ⟨rest, hr, -⟩ | ⟨-, hstatus, -⟩
    · exact .inl (.inr (resetsNext_of_host hd hr))
    · exact .inr (.inl (.of_status_eq hstatus))

/-- Settles O47: recording reports its error, and a step that reports at most one error clears none. -/
theorem stickyErrors : Obligations.StickyErrors := by
  unfold Obligations.StickyErrors
  refine ⟨fun c s => s.recordError_reports c, fun s t h hcleared => ?_⟩
  refine (step_reportsAtMostOne h).resolve_right fun hr => ?_
  rcases hcleared with ⟨c, hset, hclear⟩ | ⟨hset, hclear⟩
  · exact Bool.eq_false_iff.mp hclear (hr.sticky_eq_true hset)
  · exact hr.ecode_ne_none hset hclear

/-! ### The idle instance (R232) -/

/-- Settles O22: with nothing pending the outside world moves, and it has nothing to do. -/
theorem idleDoesNothing : Obligations.IdleDoesNothing := by
  unfold Obligations.IdleDoesNothing
  intro s hb hh
  have hpending : s.pending = none := by simpa [State.busy] using hb
  rw [step_of_due_none (due_none_of_pending hpending), State.hostStep, hh]

end Sys2Proof.Machine

namespace Sys2Proof.Machine

variable {s t : State} {rest : List HostOp}

/-! ### While the host must poll (R61, R254) -/

/-- The machine has no fault, so a step with no next state is refused (R13, R224). -/
theorem exists_refused_of_step_ne_next (h : ∀ t, step s ≠ .next t) : ∃ r, step s = .refused r := by
  cases hs : step s with
  | next t => exact absurd hs (h t)
  | fault f => exact nomatch f
  | refused r => exact ⟨r, rfl⟩

/-- While the host must poll, the outside world has nothing to do, or it drives hardware reset, or it reads `STATUS`, by
itself or in `WAIT` (R254). -/
theorem hostStep_of_mustPoll (hm : s.mustPoll = true) (h : s.hostStep = .next t) :
    (s.host = [] ∧ t = s) ∨ (∃ rest, s.host = .hwReset :: rest) ∨
      (t.pending = s.pending ∧ ∃ rest, s.host = .wait :: rest ∨ s.host = .read 32 Reg.status.addr :: rest) := by
  rcases hostStep_cases h with hidle | ⟨width, off, rest, tgt, hh, ha, ht⟩ | ⟨_, _, _, _, _, -, ha, -⟩ |
    ⟨rest, hh, -, ht⟩ | ⟨rest, hh, -, ht⟩ | ⟨rest, hh, -⟩
  · exact .inl hidle
  · obtain ⟨rfl, -, hmap, hpoll⟩ := access_ok ha
    obtain rfl : tgt = .reg .status := by simpa [hm] using hpoll
    obtain rfl := windowTarget_reg_addr hmap
    exact .inr (.inr ⟨by simp [ht], rest, .inr hh⟩)
  · obtain ⟨-, -, -, hpoll⟩ := access_ok ha
    simp [hm] at hpoll
  · exact .inr (.inr ⟨by simp [ht, State.poll], rest, .inl hh⟩)
  · exact .inr (.inr ⟨by simp [ht, State.poll], rest, .inl hh⟩)
  · exact .inr (.inl ⟨rest, hh⟩)

/-- While the host must poll, every access but a read of `STATUS` is refused (R254). -/
theorem step_refused_of_mustPoll {width off : Nat} {v : Word32} (hd : s.due = none) (hm : s.mustPoll = true)
    (hh : s.host = .read width off :: rest ∧ ¬(width = 32 ∧ off = Reg.status.addr) ∨
      s.host = .write width off v :: rest) : ∃ r, step s = .refused r := by
  refine exists_refused_of_step_ne_next fun t ht => ?_
  rw [step_of_due_none hd] at ht
  rcases hostStep_of_mustPoll hm ht with ⟨hnil, -⟩ | ⟨_, hreset⟩ | ⟨-, _, hwait | hread⟩
  · simp [hnil] at hh
  · simp [hreset] at hh
  · simp [hwait] at hh
  · rcases hh with ⟨hh, hother⟩ | hh
    · cases hread.symm.trans hh
      exact hother ⟨rfl, rfl⟩
    · simp [hread] at hh

/-- A `CMD` write that is not refused leaves the host obliged to poll (R180, R254). -/
theorem mustPoll_of_step_writeCmd {w : Word32} (hd : s.due = none) (hh : s.host = .write 32 Reg.cmd.addr w :: rest)
    (h : step s = .next t) : t.mustPoll = true := by
  cases hm : s.mustPoll with
  | true =>
    obtain ⟨r, hr⟩ := step_refused_of_mustPoll hd hm (.inr hh)
    simp [hr] at h
  | false =>
    rw [step_writeReg hm hh] at h
    cases h
    rfl

/-- The completion of a command does not end the host's obligation to poll (R61, R254). -/
theorem unsynced_of_step_due (hd : s.due ≠ none) (h : step s = .next t) : t.unsynced = s.unsynced := by
  rcases step_cases h with ⟨_, i, u, -, -, hu, rfl⟩ | ⟨_, _, -, -, rfl⟩ | ⟨hnone, -⟩
  · obtain ⟨-, houtside, -⟩ := commandFrame i s u hu
    simpa using houtside.unsynced
  · simp
  · exact absurd hnone hd

/-- The host's obligation to poll ends, short of hardware reset, only by a read of `STATUS` that shows `BUSY = 0`
(R61, R254). -/
theorem reads_idle_status_of_mustPoll_ends (hi : s.Inv) (hr : s.resetsNext = false) (h : step s = .next t)
    (hm : s.mustPoll = true) (ht : t.mustPoll = false) :
    s.due = none ∧ s.busy = false ∧ ∃ rest, s.host = .wait :: rest ∨ s.host = .read 32 Reg.status.addr :: rest := by
  obtain ⟨hpending, hsynced⟩ := mustPoll_eq_false.mp ht
  cases hd : s.due with
  | some w =>
    have hkept : t.unsynced = s.unsynced := unsynced_of_step_due (by simp [hd]) h
    simp [hkept, hi.busyPoll (busy_of_due hd)] at hsynced
  | none =>
    rw [step_of_due_none hd] at h
    rcases hostStep_of_mustPoll hm h with ⟨-, rfl⟩ | ⟨_, hreset⟩ | ⟨hkept, hread⟩
    · simp [hm] at ht
    · simp [resetsNext_of_host hd hreset] at hr
    · exact ⟨rfl, by simp [State.busy, ← hkept, hpending], hread⟩

/-- Settles O8, from what the outside world can do while the host must poll: only a read of `STATUS` is permitted, and
no completion ends the obligation. -/
theorem hostMustPoll : Obligations.HostMustPoll := by
  unfold Obligations.HostMustPoll
  exact ⟨fun _ _ _ _ hh hd h => mustPoll_of_step_writeCmd hd hh h,
    fun _ _ _ _ _ => step_refused_of_mustPoll, fun _ _ hd hh => ⟨_, step_readStatus hd hh⟩,
    fun _ _ => reads_idle_status_of_mustPoll_ends⟩

/-! ### Host agents (R256) -/

/-- Settles O23: the outside world moves, and its operation is the refused one. -/
theorem unserialisedRefused : Obligations.UnserialisedRefused := by
  unfold Obligations.UnserialisedRefused
  intro s rest hd hh
  rw [step_of_due_none hd, hostStep_cons hh, State.perform]

end Sys2Proof.Machine
